-- ==== Sys2Proof/Word.lean ====
section
/-! DEFINITION. The word types of the engine (rules R9, R21, R24, R91): every value of the hardware is unsigned. -/

namespace Sys2Proof

/-- An 8-bit unsigned value: a general register, a timer, a memory cell, the immediate `kk` (R21, R27, R30, R91). -/
abbrev Byte := BitVec 8

/-- A 16-bit unsigned value: `I`, `PC`, a stack slot, an instruction word (R24, R25, R28, R90). -/
abbrev Word := BitVec 16

/-- A 4-bit unsigned value: the fields `x`, `y`, `n`, a key number, the stack pointer (R91, R279, R29). -/
abbrev Nibble := BitVec 4

/-- The 12-bit immediate address `nnn` (R91). -/
abbrev Addr12 := BitVec 12

end Sys2Proof
end

