-- ==== Sys2Proof/Syntax.lean ====
section
/-! DEFINITION. The 35 instructions of rule R95, one constructor per row of spec/opcode_table.json, in its order. -/

namespace Sys2Proof

/-- The instruction set (R1, R95). `x`, `y` name general registers, `kk`, `n`, `nnn` are immediates (R91, R93). -/
inductive Instr where
  /-- `00E0` CLS (R220) -/
  | cls
  /-- `00EE` RET (R140) -/
  | ret
  /-- `0nnn` SYS nnn (R141) -/
  | sys (nnn : Addr12)
  /-- `1nnn` JP nnn (R142) -/
  | jp (nnn : Addr12)
  /-- `2nnn` CALL nnn (R143) -/
  | call (nnn : Addr12)
  /-- `3xkk` SE Vx, kk (R160) -/
  | seImm (x : Nibble) (kk : Byte)
  /-- `4xkk` SNE Vx, kk (R161) -/
  | sneImm (x : Nibble) (kk : Byte)
  /-- `5xy0` SE Vx, Vy (R162) -/
  | seReg (x y : Nibble)
  /-- `6xkk` LD Vx, kk (R172) -/
  | ldImm (x : Nibble) (kk : Byte)
  /-- `7xkk` ADD Vx, kk (R173) -/
  | addImm (x : Nibble) (kk : Byte)
  /-- `8xy0` LD Vx, Vy (R174) -/
  | ldReg (x y : Nibble)
  /-- `8xy1` OR Vx, Vy (R175) -/
  | orReg (x y : Nibble)
  /-- `8xy2` AND Vx, Vy (R176) -/
  | andReg (x y : Nibble)
  /-- `8xy3` XOR Vx, Vy (R177) -/
  | xorReg (x y : Nibble)
  /-- `8xy4` ADD Vx, Vy (R178) -/
  | addReg (x y : Nibble)
  /-- `8xy5` SUB Vx, Vy (R179) -/
  | subReg (x y : Nibble)
  /-- `8xy6` SHR Vx, Vy (R180) -/
  | shr (x y : Nibble)
  /-- `8xy7` SUBN Vx, Vy (R181) -/
  | subn (x y : Nibble)
  /-- `8xyE` SHL Vx, Vy (R182) -/
  | shl (x y : Nibble)
  /-- `9xy0` SNE Vx, Vy (R163) -/
  | sneReg (x y : Nibble)
  /-- `Annn` LD I, nnn (R200) -/
  | ldI (nnn : Addr12)
  /-- `Bnnn` JP V0, nnn (R144) -/
  | jpV0 (nnn : Addr12)
  /-- `Cxkk` RND Vx, kk (R183) -/
  | rnd (x : Nibble) (kk : Byte)
  /-- `Dxyn` DRW Vx, Vy, n (R221) -/
  | drw (x y n : Nibble)
  /-- `Ex9E` SKP Vx (R243) -/
  | skp (x : Nibble)
  /-- `ExA1` SKNP Vx (R244) -/
  | sknp (x : Nibble)
  /-- `Fx07` LD Vx, DT (R240) -/
  | ldVxDt (x : Nibble)
  /-- `Fx0A` LD Vx, K (R245) -/
  | ldVxK (x : Nibble)
  /-- `Fx15` LD DT, Vx (R241) -/
  | ldDtVx (x : Nibble)
  /-- `Fx18` LD ST, Vx (R242) -/
  | ldStVx (x : Nibble)
  /-- `Fx1E` ADD I, Vx (R201) -/
  | addIVx (x : Nibble)
  /-- `Fx29` LD F, Vx (R202) -/
  | ldFVx (x : Nibble)
  /-- `Fx33` LD B, Vx (R203) -/
  | ldBVx (x : Nibble)
  /-- `Fx55` LD [I], Vx (R204) -/
  | ldMemVx (x : Nibble)
  /-- `Fx65` LD Vx, [I] (R205) -/
  | ldVxMem (x : Nibble)
  deriving DecidableEq, Repr

end Sys2Proof
end

