-- ==== Sys2Proof/Decode.lean ====
section
/-! DEFINITION. Fields (R91), the decoder (R94), the encoder and the opcode map (R95). -/

namespace Sys2Proof

/-- `class`: bits 15..12 (R91). -/
def fieldClass (w : Word) : Nibble := w.extractLsb' 12 4

/-- `x`: bits 11..8 (R91). -/
def fieldX (w : Word) : Nibble := w.extractLsb' 8 4

/-- `y`: bits 7..4 (R91). -/
def fieldY (w : Word) : Nibble := w.extractLsb' 4 4

/-- `n`: bits 3..0 (R91). -/
def fieldN (w : Word) : Nibble := w.extractLsb' 0 4

/-- `kk`: bits 7..0 (R91). -/
def fieldKk (w : Word) : Byte := w.extractLsb' 0 8

/-- `nnn`: bits 11..0 (R91). -/
def fieldNnn (w : Word) : Addr12 := w.extractLsb' 0 12

/-- The high byte, stored at the lower address (R64, R90). -/
def highByte (w : Word) : Byte := w.extractLsb' 8 8

/-- The low byte, stored at the higher address (R64, R90). -/
def lowByte (w : Word) : Byte := w.extractLsb' 0 8

/-- Why the decoder gives no instruction. -/
inductive Reject where
  /-- Fewer than the two bytes of an instruction word (R90); a fetch never produces this. -/
  | truncated
  /-- A word that matches no handler (R96). -/
  | unrecognizedOpcode (w : Word)
  deriving DecidableEq, Repr

/-- Second-level dispatch of class 8 on `n` (R94, R184). -/
def decodeAlu (w : Word) : Except Reject Instr :=
  match (fieldN w).toNat with
  | 0x0 => .ok (.ldReg (fieldX w) (fieldY w))
  | 0x1 => .ok (.orReg (fieldX w) (fieldY w))
  | 0x2 => .ok (.andReg (fieldX w) (fieldY w))
  | 0x3 => .ok (.xorReg (fieldX w) (fieldY w))
  | 0x4 => .ok (.addReg (fieldX w) (fieldY w))
  | 0x5 => .ok (.subReg (fieldX w) (fieldY w))
  | 0x6 => .ok (.shr (fieldX w) (fieldY w))
  | 0x7 => .ok (.subn (fieldX w) (fieldY w))
  | 0xE => .ok (.shl (fieldX w) (fieldY w))
  | _ => .error (.unrecognizedOpcode w)

/-- Second-level dispatch of class E on `kk` (R94). -/
def decodeKey (w : Word) : Except Reject Instr :=
  match (fieldKk w).toNat with
  | 0x9E => .ok (.skp (fieldX w))
  | 0xA1 => .ok (.sknp (fieldX w))
  | _ => .error (.unrecognizedOpcode w)

/-- Second-level dispatch of class F on `kk` (R94). -/
def decodeMisc (w : Word) : Except Reject Instr :=
  match (fieldKk w).toNat with
  | 0x07 => .ok (.ldVxDt (fieldX w))
  | 0x0A => .ok (.ldVxK (fieldX w))
  | 0x15 => .ok (.ldDtVx (fieldX w))
  | 0x18 => .ok (.ldStVx (fieldX w))
  | 0x1E => .ok (.addIVx (fieldX w))
  | 0x29 => .ok (.ldFVx (fieldX w))
  | 0x33 => .ok (.ldBVx (fieldX w))
  | 0x55 => .ok (.ldMemVx (fieldX w))
  | 0x65 => .ok (.ldVxMem (fieldX w))
  | _ => .error (.unrecognizedOpcode w)

/-- Dispatch on the class, after the two full-word opcodes (R94). -/
def decodeClass (w : Word) : Except Reject Instr :=
  match (fieldClass w).toNat with
  | 0x0 => .ok (.sys (fieldNnn w))
  | 0x1 => .ok (.jp (fieldNnn w))
  | 0x2 => .ok (.call (fieldNnn w))
  | 0x3 => .ok (.seImm (fieldX w) (fieldKk w))
  | 0x4 => .ok (.sneImm (fieldX w) (fieldKk w))
  | 0x5 => if fieldN w = 0 then .ok (.seReg (fieldX w) (fieldY w)) else .error (.unrecognizedOpcode w)
  | 0x6 => .ok (.ldImm (fieldX w) (fieldKk w))
  | 0x7 => .ok (.addImm (fieldX w) (fieldKk w))
  | 0x8 => decodeAlu w
  | 0x9 => if fieldN w = 0 then .ok (.sneReg (fieldX w) (fieldY w)) else .error (.unrecognizedOpcode w)
  | 0xA => .ok (.ldI (fieldNnn w))
  | 0xB => .ok (.jpV0 (fieldNnn w))
  | 0xC => .ok (.rnd (fieldX w) (fieldKk w))
  | 0xD => .ok (.drw (fieldX w) (fieldY w) (fieldN w))
  | 0xE => decodeKey w
  | 0xF => decodeMisc w
  | _ => .error (.unrecognizedOpcode w)

/-- The decoder, total on words: 00E0 and 00EE first, then the class (R94). -/
def decode (w : Word) : Except Reject Instr :=
  if w = 0x00E0#16 then .ok .cls
  else if w = 0x00EE#16 then .ok .ret
  else decodeClass w

/-- The decoder on bytes in memory order, high byte first (R64, R90): the instruction and the bytes after it. -/
def decodeBytes : List Byte → Except Reject (Instr × List Byte)
  | hi :: lo :: rest =>
    match decode (hi ++ lo) with
    | .ok i => .ok (i, rest)
    | .error e => .error e
  | _ => .error .truncated

/-- Format NNN (R92). -/
def packNnn (c : Nibble) (nnn : Addr12) : Word := c ++ nnn

/-- Formats XKK and X (R92). -/
def packXKk (c x : Nibble) (kk : Byte) : Word := c ++ x ++ kk

/-- Formats XY and XYN (R92). -/
def packXYN (c x y n : Nibble) : Word := c ++ x ++ y ++ n

/-- The instruction word of `i`, from the formats of R92 and the opcode map of R95. -/
def encode (i : Instr) : Word :=
  match i with
  | .cls => 0x00E0#16
  | .ret => 0x00EE#16
  | .sys nnn => packNnn 0x0 nnn
  | .jp nnn => packNnn 0x1 nnn
  | .call nnn => packNnn 0x2 nnn
  | .seImm x kk => packXKk 0x3 x kk
  | .sneImm x kk => packXKk 0x4 x kk
  | .seReg x y => packXYN 0x5 x y 0x0
  | .ldImm x kk => packXKk 0x6 x kk
  | .addImm x kk => packXKk 0x7 x kk
  | .ldReg x y => packXYN 0x8 x y 0x0
  | .orReg x y => packXYN 0x8 x y 0x1
  | .andReg x y => packXYN 0x8 x y 0x2
  | .xorReg x y => packXYN 0x8 x y 0x3
  | .addReg x y => packXYN 0x8 x y 0x4
  | .subReg x y => packXYN 0x8 x y 0x5
  | .shr x y => packXYN 0x8 x y 0x6
  | .subn x y => packXYN 0x8 x y 0x7
  | .shl x y => packXYN 0x8 x y 0xE
  | .sneReg x y => packXYN 0x9 x y 0x0
  | .ldI nnn => packNnn 0xA nnn
  | .jpV0 nnn => packNnn 0xB nnn
  | .rnd x kk => packXKk 0xC x kk
  | .drw x y n => packXYN 0xD x y n
  | .skp x => packXKk 0xE x 0x9E
  | .sknp x => packXKk 0xE x 0xA1
  | .ldVxDt x => packXKk 0xF x 0x07
  | .ldVxK x => packXKk 0xF x 0x0A
  | .ldDtVx x => packXKk 0xF x 0x15
  | .ldStVx x => packXKk 0xF x 0x18
  | .addIVx x => packXKk 0xF x 0x1E
  | .ldFVx x => packXKk 0xF x 0x29
  | .ldBVx x => packXKk 0xF x 0x33
  | .ldMemVx x => packXKk 0xF x 0x55
  | .ldVxMem x => packXKk 0xF x 0x65

/-- The columns `mask` and `match` of the instruction's row in the opcode map (R95). -/
def opcodeRow (i : Instr) : Word × Word :=
  match i with
  | .cls => (0xFFFF, 0x00E0)
  | .ret => (0xFFFF, 0x00EE)
  | .sys _ => (0xF000, 0x0000)
  | .jp _ => (0xF000, 0x1000)
  | .call _ => (0xF000, 0x2000)
  | .seImm _ _ => (0xF000, 0x3000)
  | .sneImm _ _ => (0xF000, 0x4000)
  | .seReg _ _ => (0xF00F, 0x5000)
  | .ldImm _ _ => (0xF000, 0x6000)
  | .addImm _ _ => (0xF000, 0x7000)
  | .ldReg _ _ => (0xF00F, 0x8000)
  | .orReg _ _ => (0xF00F, 0x8001)
  | .andReg _ _ => (0xF00F, 0x8002)
  | .xorReg _ _ => (0xF00F, 0x8003)
  | .addReg _ _ => (0xF00F, 0x8004)
  | .subReg _ _ => (0xF00F, 0x8005)
  | .shr _ _ => (0xF00F, 0x8006)
  | .subn _ _ => (0xF00F, 0x8007)
  | .shl _ _ => (0xF00F, 0x800E)
  | .sneReg _ _ => (0xF00F, 0x9000)
  | .ldI _ => (0xF000, 0xA000)
  | .jpV0 _ => (0xF000, 0xB000)
  | .rnd _ _ => (0xF000, 0xC000)
  | .drw _ _ _ => (0xF000, 0xD000)
  | .skp _ => (0xF0FF, 0xE09E)
  | .sknp _ => (0xF0FF, 0xE0A1)
  | .ldVxDt _ => (0xF0FF, 0xF007)
  | .ldVxK _ => (0xF0FF, 0xF00A)
  | .ldDtVx _ => (0xF0FF, 0xF015)
  | .ldStVx _ => (0xF0FF, 0xF018)
  | .addIVx _ => (0xF0FF, 0xF01E)
  | .ldFVx _ => (0xF0FF, 0xF029)
  | .ldBVx _ => (0xF0FF, 0xF033)
  | .ldMemVx _ => (0xF0FF, 0xF055)
  | .ldVxMem _ => (0xF0FF, 0xF065)

/-- The word of the opcode table's bits `w` of a row `nbits` wide: an instruction is one word, so its bits above 15, and
the bits above `nbits`, are none (R90). -/
def tableWord (nbits w : Nat) : Word := BitVec.ofNat 16 (w % 2 ^ nbits)

/-- The instruction the decoder reads from an instruction whose bits are `w`, laid out high byte first (R90). -/
def decodeTableWord (nbits w : Nat) : Option Instr :=
  match decodeBytes [highByte (tableWord nbits w), lowByte (tableWord nbits w)] with
  | .ok (i, _) => some i
  | .error _ => none

end Sys2Proof
end

