-- ==== Sys2Proof/Machine/Fontset.lean ====
section
/-! DEFINITION. The parameter `FONTSET` (rules R8, R62; U16, D18): its type, and its default value. The machine takes it as
the field `State.fontset`, which `State.resetWith` is given and nothing changes; no definition but `State.reset` names the
default. -/

namespace Sys2Proof.Machine

/-- A value of the parameter `FONTSET` (R8): 80 bytes, five for each hexadecimal digit, the digit `d` from `5*d` (R61). -/
abbrev Fontset := Vector Byte 80

/-- The default table of R62, digit by digit, from general knowledge (G1). PRESUMED, assumption log 6. -/
def defaultGlyphs : List Byte :=
  [0xF0, 0x90, 0x90, 0x90, 0xF0] ++ [0x20, 0x60, 0x20, 0x20, 0x70] ++
  [0xF0, 0x10, 0xF0, 0x80, 0xF0] ++ [0xF0, 0x10, 0xF0, 0x10, 0xF0] ++
  [0x90, 0x90, 0xF0, 0x10, 0x10] ++ [0xF0, 0x80, 0xF0, 0x10, 0xF0] ++
  [0xF0, 0x80, 0xF0, 0x90, 0xF0] ++ [0xF0, 0x10, 0x20, 0x40, 0x40] ++
  [0xF0, 0x90, 0xF0, 0x90, 0xF0] ++ [0xF0, 0x90, 0xF0, 0x10, 0xF0] ++
  [0xF0, 0x90, 0xF0, 0x90, 0x90] ++ [0xE0, 0x90, 0xE0, 0x90, 0xE0] ++
  [0xF0, 0x80, 0x80, 0x80, 0xF0] ++ [0xE0, 0x90, 0x90, 0x90, 0xE0] ++
  [0xF0, 0x80, 0xF0, 0x80, 0xF0] ++ [0xF0, 0x80, 0xF0, 0x80, 0x80]

/-- The default value of `FONTSET` (R62, D18). PRESUMED, assumption log 6. -/
def defaultFontset : Fontset := ⟨defaultGlyphs.toArray, rfl⟩

end Sys2Proof.Machine
end

