-- ==== Sys2Proof/Config.lean ====
section
/-! DEFINITION. What the implementation fixes (rule R8), and the free values of the inputs the spec leaves open:
the key levels, `KEY_PRIORITY` and `RND_SOURCE` (R36, R279, R280). `STEPS_PER_CYCLE` is an argument of
`Machine.cycleOps`, never a number here; `TICK_HZ` is used by no rule (R8). -/

namespace Sys2Proof

/-- Number of memory cells (R8, R30). -/
abbrev Config.memSize : Nat := 0x1000

/-- Where a program image is loaded and where execution starts (R8, R61). -/
abbrev Config.programBase : Nat := 0x200

/-- The longest image the block accepts (R77, R283). -/
abbrev Config.maxImage : Nat := 0xE00

/-- FREE VALUE. The key levels the host drives for the `n`-th sample of the input ports: any 16 bits (R36, R279).
Assumption log 2. -/
opaque Config.keys : Nat → BitVec 16

/-- FREE VALUE. `KEY_PRIORITY` (R8, R279): the key number from which the host looks for a pressed key in the `n`-th
sample; by its choice any pressed key can be the one `key_first` names. Assumption log 2. -/
opaque Config.keyPriority : Nat → Nibble

/-- FREE VALUE. `RND_SOURCE` (R8, R280): the random byte on the port in the `n`-th sample, any value, with no relation
between samples. Assumption log 3. -/
opaque Config.rnd : Nat → Byte

end Sys2Proof
end

