-- ==== Sys2Proof/Machine/Ports.lean ====
section
/-! DEFINITION. The input ports a step samples (rules R7, R36, R247, R279, R280), and the free sample of them. -/

namespace Sys2Proof.Machine

/-- The values on the input ports during one step (R7, R120). They are inputs, not state of the block (R36); the model
carries them in its state so that a step is a function of it. -/
structure Ports where
  /-- `keys[k]`: logical key `k` is pressed (R279). -/
  keys : BitVec 16
  /-- `key_first`: `none` when its valid bit is 0, else the key number (R279). -/
  keyFirst : Option Nibble
  /-- `rnd`: the byte `random-byte()` returns in this step (R280). -/
  rnd : Byte
  deriving DecidableEq, Repr

/-- Key `k` is down in the sample (R279). -/
def keyDown (keys : BitVec 16) (k : Nibble) : Bool := keys.getLsbD k.toNat

/-- The host's duty on the two key ports (R279): `key_first` is valid exactly when some key is pressed, and then names a
pressed one. -/
def portsConsistent (p : Ports) : Bool :=
  match p.keyFirst with
  | none => p.keys == 0
  | some k => keyDown p.keys k

/-- The first pressed key met from `start` upwards, wrapping from key F to key 0; none when none is pressed. -/
def firstPressed (keys : BitVec 16) (start : Nibble) : Option Nibble :=
  ((List.range 16).map fun d => start + BitVec.ofNat 4 d).find? (keyDown keys)

/-- The `n`-th free sample of the ports: any key levels, `key_first` any pressed key, any random byte (R279, R280).
DESIGN CHOICE, assumption log 2 and 3. -/
def sampledPorts (n : Nat) : Ports :=
  { keys := Config.keys n
    keyFirst := firstPressed (Config.keys n) (Config.keyPriority n)
    rnd := Config.rnd n }

end Sys2Proof.Machine
end

