-- ==== Sys2Proof/Machine/State.lean ====
section
/-! DEFINITION. The state of the block (rules R20 to R38), the outcome reasons, and the state after `initialize`. -/

namespace Sys2Proof.Machine

/-- The values of `halt_cause` (R260). A closed type: the register takes only these codes (R41). -/
inductive HaltCause where
  /-- 0: while `running` = 1. -/
  | none
  /-- 1: decode of an unrecognized word (R261). -/
  | unrecognizedOpcode
  /-- 2: CALL with `SP` = 15 (R262). -/
  | stackOverflow
  /-- 3: RET with `SP` = 0 (R263). -/
  | stackUnderflow
  /-- 4: fetch, DRW, LD B, LD [I], LD Vx,[I] beyond 0xFFF (R264). -/
  | addressOutOfRange
  /-- 5: DRW outside the grid (R265). -/
  | framebufferOutOfRange
  /-- 6: SKP, SKNP with a key number above 15 (R266). -/
  | keyOutOfRange
  /-- 7: the SYS instruction (R267). -/
  | sysHalt
  /-- 8: the host's quit (R268). -/
  | hostQuit
  deriving DecidableEq, Repr

/-- The result of a step (R128), on the `status` output port (R7). -/
inductive Status where
  /-- 0: `running` was 0 at entry. -/
  | idle
  /-- 1: one instruction completed. -/
  | retired
  /-- 2: Fx0A found no key. -/
  | waiting
  /-- 3: a fault was raised. -/
  | faulted
  deriving DecidableEq, Repr

/-- The halt record (R35). -/
structure HaltRecord where
  /-- `halt_cause`, 4 bits (its code is `causeCode`). -/
  cause : HaltCause
  /-- `halt_opcode`. -/
  opcode : Word
  /-- `halt_pc`. -/
  pc : Word
  /-- `halt_info`. -/
  info : Word
  deriving DecidableEq, Repr

/-- The halt record after `initialize` and while `running` = 1 (R35, R38). -/
def HaltRecord.clear : HaltRecord := { cause := .none, opcode := 0, pc := 0, info := 0 }

/-- The state of the block, element by element as rule R20 lists it, then five fields of the MODEL's own (a parameter, inputs and
outputs of the operations, which R36 and R128 keep out of the block's state). -/
structure State where
  /-- `V[0]`..`V[15]` (R21). -/
  v : Vector Byte 16
  /-- `I` (R24). -/
  i : Word
  /-- `PC` (R25). -/
  pc : Word
  /-- `SP` (R29). -/
  sp : Nibble
  /-- `stack[0]`..`stack[15]` (R28). -/
  stack : Vector Word 16
  /-- `DT` (R27). -/
  dt : Byte
  /-- `ST` (R27). -/
  st : Byte
  /-- `mem[0x000]`..`mem[0xFFF]` (R30): the cells that differ from their reset contents, in canonical form
  (`Memory.wf`). -/
  mem : List Host.Cell
  /-- `fb`, 2048 x 1 bit (R20, R31): 32 rows of 64 one-bit pixels; `fb[y][x]` is bit `x` of row `y` (`pixel`). -/
  fb : Vector (BitVec 64) 32
  /-- `running` (R34). -/
  running : Bool
  /-- `needs_repaint` (R33). -/
  needsRepaint : Bool
  /-- `halt_cause`, `halt_opcode`, `halt_pc`, `halt_info` (R35). -/
  halt : HaltRecord
  /-- The model's own: the `status` output of the last step (R7, R128). Assumption log 4. -/
  status : Status
  /-- The model's own: the values on the input ports for the next step (R7, R36). Assumption log 2, 3. -/
  ports : Ports
  /-- The model's own: how many free samples of the ports have been taken. Assumption log 2, 3. -/
  sample : Nat
  /-- The model's own: `load` is still permitted, that is no step and no load since `initialize` (R40, R283).
  Assumption log 5. -/
  loadOpen : Bool
  /-- The model's own: the parameter `FONTSET` (R8, R62), which nothing changes. Assumption log 18. -/
  fontset : Fontset
  deriving DecidableEq, Repr

/-- The faults that stop the model without a next state: there are none. Every fault of the spec is a defined NEXT state,
`running` = 0 with the halt record written (R260, R269), and every address is checked before it is used (R63, R127), so no
operation of the model answers a fault. Nobody raises one; safe. -/
inductive Fault where
  deriving DecidableEq, Repr

/-- The refusals. No instruction answers one: `notModelled` is for an instruction without a meaning, and the others are
host actions the spec gives no transition (R40, R287 last row; U13 and U20 of 93_implementation_defined.md). -/
inductive Refusal where
  /-- Raised by `exec` for an instruction that has no meaning yet (none is left). Safe. -/
  | notModelled (mnemonic : String)
  /-- Raised by the host operation `load` after the first step or after an earlier `load` (R40, R283). Safe: the spec
  gives the action no transition. -/
  | loadClosed
  /-- Raised by the host operation `load` on an image longer than 0xE00 bytes (R77, R283). Safe: the block never sees
  one. -/
  | imageTooLong
  /-- Raised by the host operation that drives the ports, on key ports that break the host's duty (R279, U13). Safe: the
  environment is assumed never to produce them. -/
  | inconsistentKeys
  deriving DecidableEq, Repr

/-- The machine right after `initialize` (R38, R300), for any value of the parameter `FONTSET` (R62). Memory lists nothing:
every cell has its reset contents (`Memory.unlisted`). The ports carry the first free sample. -/
def State.resetWith (fontset : Fontset) : State where
  v := Vector.replicate 16 0
  i := 0
  pc := 0x0200
  sp := 0
  stack := Vector.replicate 16 0
  dt := 0
  st := 0
  mem := []
  fb := Vector.replicate 32 0
  running := true
  needsRepaint := false
  halt := HaltRecord.clear
  status := .idle
  ports := sampledPorts 0
  sample := 1
  loadOpen := true
  fontset := fontset

/-- The machine right after `initialize`, with the default `FONTSET` (R62, D18). Assumption log 6, 18. -/
def State.reset : State := State.resetWith defaultFontset

end Sys2Proof.Machine
end

