-- ==== Sys2Proof/Machine/Memory.lean ====
section
/-! DEFINITION. The 4096-byte memory as a canonical list of cells (rules R30, R61 to R65, R79), `f` being the parameter
`FONTSET`. The functions are total on numbers; the check of R63 is made by every caller first (R127, `firstOutside` in
Ops). -/

namespace Sys2Proof.Machine

/-- What an unlisted address reads as: its contents after `initialize`, `FONTSET` at 0x000..0x04F and 0x00 above
(R38, R62, R300). -/
def Memory.unlisted (f : Fontset) (a : Nat) : Byte := if h : a < 80 then f[a] else 0

/-- The canonical form of memory: addresses strictly rising, all below 0x1000 (R30), and no entry equal to what an
unlisted address reads as. -/
abbrev Memory.wf (f : Fontset) (m : List Host.Cell) : Prop :=
  m.Pairwise (fun c d => c.1 < d.1) ∧ ∀ c ∈ m, c.1 < Config.memSize ∧ c.2 ≠ Memory.unlisted f c.1

/-- `mem[a]` (R63). -/
def Memory.read (f : Fontset) : List Host.Cell → Nat → Byte
  | [], a => Memory.unlisted f a
  | c :: m, a => if c.1 = a then c.2 else Memory.read f m a

/-- A new first cell, unless it equals what the unlisted address reads as. -/
def Memory.cons (f : Fontset) (a : Nat) (b : Byte) (m : List Host.Cell) : List Host.Cell :=
  if b = Memory.unlisted f a then m else (a, b) :: m

/-- `mem[a] <- b` (R63), in canonical form. -/
def Memory.write (f : Fontset) : List Host.Cell → Nat → Byte → List Host.Cell
  | [], a, b => Memory.cons f a b []
  | c :: m, a, b =>
    if a < c.1 then Memory.cons f a b (c :: m)
    else if a = c.1 then Memory.cons f a b m
    else c :: Memory.write f m a b

/-- The `n` bytes from `base` on, in ascending order (R65, R67). -/
def Memory.readBytes (f : Fontset) (m : List Host.Cell) (base n : Nat) : List Byte :=
  (List.range n).map fun k => Memory.read f m (base + k)

/-- Bytes stored from `base` on, in ascending order (R65, R67). -/
def Memory.writeBytes (f : Fontset) : List Host.Cell → Nat → List Byte → List Host.Cell
  | m, _, [] => m
  | m, base, b :: bs => Memory.writeBytes f (Memory.write f m base b) (base + 1) bs

end Sys2Proof.Machine
end

