-- ==== Sys2Proof/Machine/Ops.lean ====
section
/-! DEFINITION. The named operations over registers, the program counter and the status outputs: NextPC, SkipPC, the
fault entry `raise` (the one exception of this hardware, R269), the fetch. -/

namespace Sys2Proof.Machine

/-- What an operation of the model answers. -/
abbrev Result := Host.Outcome State Fault Refusal

/-- `f` of the next state, when there is one. -/
def mapNext (f : State → State) : Result → Result
  | .next s => .next (f s)
  | .fault r => .fault r
  | .refused r => .refused r

/-- The 4-bit code of `halt_cause` (R260). -/
def causeCode : HaltCause → BitVec 4
  | .none => 0
  | .unrecognizedOpcode => 1
  | .stackOverflow => 2
  | .stackUnderflow => 3
  | .addressOutOfRange => 4
  | .framebufferOutOfRange => 5
  | .keyOutOfRange => 6
  | .sysHalt => 7
  | .hostQuit => 8

/-- The 2-bit code of `status` (R128). -/
def statusCode : Status → BitVec 2
  | .idle => 0
  | .retired => 1
  | .waiting => 2
  | .faulted => 3

/-- `V[x]` (R10, R21). -/
def State.getV (s : State) (x : Nibble) : Byte := s.v[x.toNat]'x.isLt

/-- `V[x] <- b` (R10, R21): no register is hardwired. -/
def State.setV (s : State) (x : Nibble) (b : Byte) : State := { s with v := s.v.set x.toNat b x.isLt }

/-- `V[15] <- flag`, then `V[x] <- result` (R171): the result lands last. -/
def State.setFlagThenV (s : State) (flag : Byte) (x : Nibble) (result : Byte) : State :=
  (s.setV 15 flag).setV x result

/-- `stack[k]` (R28). -/
def State.getSlot (s : State) (k : Nibble) : Word := s.stack[k.toNat]'k.isLt

/-- `stack[k] <- w` (R28). -/
def State.setSlot (s : State) (k : Nibble) (w : Word) : State :=
  { s with stack := s.stack.set k.toNat w k.isLt }

/-- `SP <- k` (R29). -/
def State.setSP (s : State) (k : Nibble) : State := { s with sp := k }

/-- `I <- w` (R24). -/
def State.setI (s : State) (w : Word) : State := { s with i := w }

/-- The whole register file (R205). -/
def State.setRegisters (s : State) (v : Vector Byte 16) : State := { s with v := v }

/-- The whole memory (R63). -/
def State.setMem (s : State) (m : List Host.Cell) : State := { s with mem := m }

/-- `MemRead(a, 1)` once the address is checked (R63). -/
def State.byteAt (s : State) (a : Nat) : Byte := Memory.read s.fontset s.mem a

/-- The `n` bytes from `base` on, in ascending order (R65, R67). -/
def State.bytesAt (s : State) (base n : Nat) : List Byte := Memory.readBytes s.fontset s.mem base n

/-- `MemWrite` of bytes from `base` on, in ascending order, once the addresses are checked (R63, R65, R67). -/
def State.storeBytes (s : State) (base : Nat) (bytes : List Byte) : State :=
  s.setMem (Memory.writeBytes s.fontset s.mem base bytes)

/-- The framebuffer changed: `needs_repaint <- 1` with it (R33, R226). -/
def State.setScreen (s : State) (fb : Vector (BitVec 64) 32) : State := { s with fb := fb, needsRepaint := true }

/-- `DT <- b` (R27). -/
def State.setDT (s : State) (b : Byte) : State := { s with dt := b }

/-- `ST <- b` (R27). -/
def State.setST (s : State) (b : Byte) : State := { s with st := b }

/-- The instruction retires with its program-counter update, its last effect (R125, R128). -/
def State.retireAt (s : State) (target : Word) : State := { s with pc := target, status := .retired }

/-- `NextPC()` (R125). -/
def State.nextPC (s : State) : State := s.retireAt (s.pc + 2)

/-- `SkipPC()` (R126). -/
def State.skipPC (s : State) : State := s.retireAt (s.pc + 4)

/-- A skip instruction: `SkipPC()` when its condition holds, `NextPC()` when not (R126). -/
def State.skipWhen (s : State) (condition : Bool) : State := if condition then s.skipPC else s.nextPC

/-- The step ends with nothing changed (R121, R128, R245). -/
def State.endWith (s : State) (status : Status) : State := { s with status := status }

/-- The halt: `running <- 0` and the record, at the address `PC` has (R35). -/
def State.haltWith (s : State) (cause : HaltCause) (opcode info : Word) : State :=
  { s with
    running := false
    halt := { cause := cause, opcode := opcode, pc := s.pc, info := info } }

/-- Fault entry, `raise F(info)` (R269): the halt record is written, `PC` stays at the instruction, nothing else
changes. There is no return from it (R273). -/
def State.raise (s : State) (cause : HaltCause) (opcode info : Word) : State :=
  (s.haltWith cause opcode info).endWith .faulted

/-- The lowest address above 0xFFF among the `n` addresses from `base`, if there is one (R63, R264). -/
def firstOutside (base n : Nat) : Option Word :=
  if n = 0 ∨ base + n ≤ Config.memSize then none else some (BitVec.ofNat 16 (max base Config.memSize))

/-- `Fetch()` (R64): the word at `PC`, high byte first; or, when `PC > 0xFFE`, the first address outside. -/
def fetch (s : State) : Except Word Word :=
  match firstOutside s.pc.toNat 2 with
  | some a => .error a
  | none => .ok (s.byteAt s.pc.toNat ++ s.byteAt (s.pc.toNat + 1))

/-- What the environment does around a step: the ports take the next free sample, and `load` is no longer permitted
(R36, R40, R247). It touches no element of the block's own state. DESIGN CHOICE, assumption log 2, 3, 5. -/
def State.afterStep (s : State) : State :=
  { s with ports := sampledPorts s.sample, sample := s.sample + 1, loadOpen := false }

/-- The word `w` placed where the next fetch reads it, the engine running; nothing when `PC > 0xFFE`, where no word can
stand (R64). -/
def State.placeWord (s : State) (w : Word) : State :=
  match firstOutside s.pc.toNat 2 with
  | some _ => s
  | none =>
    { s.storeBytes s.pc.toNat [highByte w, lowByte w] with running := true }

end Sys2Proof.Machine
end

