-- ==== Sys2Proof/Machine/Operands.lean ====
section
/-! DEFINITION. The operand forms (rules R93, R207): zero-extended immediates, the bytes moved at `I`, the decimal digits,
the sprite. -/

namespace Sys2Proof.Machine

/-- `zext_16(nnn)` (R93). -/
def zext16 (nnn : Addr12) : Word := nnn.setWidth 16

/-- An 8-bit register as a 16-bit addend (R144, R201). -/
def zextByte (b : Byte) : Word := b.setWidth 16

/-- The number of registers `V[0]`..`V[x]`, `x` included (R204, R205, R206). -/
def blockLength (x : Nibble) : Nat := x.toNat + 1

/-- The bytes of `V[0]`..`V[x]` in ascending order (R204). -/
def registerBlock (s : State) (x : Nibble) : List Byte := s.v.toList.take (blockLength x)

/-- `V[0]`..`V[x]` loaded from memory at `base`; the registers above `x` unchanged (R205). -/
def loadBlock (s : State) (base : Nat) (x : Nibble) : Vector Byte 16 :=
  s.v.mapFinIdx fun k b _ => if k < blockLength x then s.byteAt (base + k) else b

/-- Hundreds, tens and ones of a byte (R203, R206). -/
def decimalDigits (b : Byte) : List Byte :=
  [BitVec.ofNat 8 (b.toNat / 100), BitVec.ofNat 8 (b.toNat / 10 % 10), BitVec.ofNat 8 (b.toNat % 10)]

/-- `I` after a block move (R204, R205). -/
def advanceIndex (i0 : Word) (x : Nibble) : Word := i0 + BitVec.ofNat 16 (blockLength x)

/-- The sprite's rows, the `n` bytes at `I` (R221). -/
def spriteRows (s : State) (n : Nibble) : List Byte := s.bytesAt s.i.toNat n.toNat

/-- The sprite bit of row `row`, column `col`: bit `7 - col` of the row's byte (R222); 0 below the last row. PRESUMED
bit order, assumption log 7. -/
def spriteBit (rows : List Byte) (row col : Nat) : Bool := (rows.getD row 0).getLsbD (7 - col)

/-- The 8-by-`n` rectangle at column `vx`, row `vy` does not lie inside the 64x32 grid (R223). -/
def offGrid (vx vy : Byte) (n : Nibble) : Bool :=
  decide (1 ≤ n.toNat) && (decide (vx.toNat + 7 > 63) || decide (vy.toNat + n.toNat - 1 > 31))

end Sys2Proof.Machine
end

