-- ==== Sys2Proof/Machine/Flags.lean ====
section
/-! DEFINITION. The flag computations written to `VF` (rules R23, R170, R178 to R182, R224). -/

namespace Sys2Proof.Machine

/-- A flag as the byte written to `VF`: 1 or 0. -/
def flagByte (f : Bool) : Byte := if f then 1 else 0

/-- Carry of 8xy4: the unbounded sum exceeds 255 (R178). -/
def carryFlag (a b : Byte) : Byte := flagByte (decide (a.toNat + b.toNat > 255))

/-- The flag of 8xy5 and 8xy7: the minuend is strictly greater (R179, R181; G4). -/
def greaterFlag (minuend subtrahend : Byte) : Byte := flagByte (decide (minuend.toNat > subtrahend.toNat))

/-- The flag of 8xy6: bit 0 of `V[y]` (R180). -/
def shrFlag (b : Byte) : Byte := flagByte (b.getLsbD 0)

/-- `SHL_FLAG_BIT`: the bit of `V[y]` that 8xyE writes to `VF`, bit 0 on this hardware (R182; G3). -/
def shlFlagBit : Nat := 0

/-- The flag of 8xyE: bit `SHL_FLAG_BIT` of `V[y]` (R182). -/
def shlFlag (b : Byte) : Byte := flagByte (b.getLsbD shlFlagBit)

/-- `fb[y][x]`, the pixel in column `x`, row `y` (R31); false outside the grid, where no instruction looks (R75). -/
def pixel (fb : Vector (BitVec 64) 32) (x y : Nat) : Bool :=
  match fb[y]? with
  | some row => row.getLsbD x
  | none => false

/-- The collision detector: some sprite bit is 1 where the pixel was 1 before the instruction (R224). -/
def collides (fb : Vector (BitVec 64) 32) (rows : List Byte) (vx vy : Nat) : Bool :=
  (List.range rows.length).any fun row =>
    (List.range 8).any fun col => spriteBit rows row col && pixel fb (vx + col) (vy + row)

end Sys2Proof.Machine
end

