-- ==== Sys2Proof/Machine/Alu.lean ====
section
/-! DEFINITION. Register load, arithmetic, logic, shift, random (rules R170 to R184). Operands are the values before any
write (R124); the flag is written first, the result last (R171). -/

namespace Sys2Proof.Machine

/-- 6xkk LD Vx, kk (R172). -/
def execLdImm (x : Nibble) (kk : Byte) (s : State) : Result :=
  .next (s.setV x kk).nextPC

/-- 7xkk ADD Vx, kk (R173): modulo 256, no flag. -/
def execAddImm (x : Nibble) (kk : Byte) (s : State) : Result :=
  .next (s.setV x (s.getV x + kk)).nextPC

/-- 8xy0 LD Vx, Vy (R174). -/
def execLdReg (x y : Nibble) (s : State) : Result :=
  .next (s.setV x (s.getV y)).nextPC

/-- 8xy1 OR Vx, Vy (R175): `VF` is not written. -/
def execOrReg (x y : Nibble) (s : State) : Result :=
  .next (s.setV x (s.getV x ||| s.getV y)).nextPC

/-- 8xy2 AND Vx, Vy (R176). -/
def execAndReg (x y : Nibble) (s : State) : Result :=
  .next (s.setV x (s.getV x &&& s.getV y)).nextPC

/-- 8xy3 XOR Vx, Vy (R177). -/
def execXorReg (x y : Nibble) (s : State) : Result :=
  .next (s.setV x (s.getV x ^^^ s.getV y)).nextPC

/-- 8xy4 ADD Vx, Vy (R178). -/
def execAddReg (x y : Nibble) (s : State) : Result :=
  .next (s.setFlagThenV (carryFlag (s.getV x) (s.getV y)) x (s.getV x + s.getV y)).nextPC

/-- 8xy5 SUB Vx, Vy (R179). -/
def execSubReg (x y : Nibble) (s : State) : Result :=
  .next (s.setFlagThenV (greaterFlag (s.getV x) (s.getV y)) x (s.getV x - s.getV y)).nextPC

/-- 8xy6 SHR Vx, Vy (R180): the old `V[x]` is not used. -/
def execShr (x y : Nibble) (s : State) : Result :=
  .next (s.setFlagThenV (shrFlag (s.getV y)) x (s.getV y >>> 1)).nextPC

/-- 8xy7 SUBN Vx, Vy (R181). -/
def execSubn (x y : Nibble) (s : State) : Result :=
  .next (s.setFlagThenV (greaterFlag (s.getV y) (s.getV x)) x (s.getV y - s.getV x)).nextPC

/-- 8xyE SHL Vx, Vy (R182): the old `V[x]` is not used. -/
def execShl (x y : Nibble) (s : State) : Result :=
  .next (s.setFlagThenV (shlFlag (s.getV y)) x (s.getV y <<< 1)).nextPC

/-- Cxkk RND Vx, kk (R183): the byte on the port, a free value (assumption log 3). -/
def execRnd (x : Nibble) (kk : Byte) (s : State) : Result :=
  .next (s.setV x (s.ports.rnd &&& kk)).nextPC

end Sys2Proof.Machine
end

