-- ==== Sys2Proof/Machine/Control.lean ====
section
/-! DEFINITION. Control transfer (rules R140 to R146): RET, SYS, JP, CALL, JP V0. -/

namespace Sys2Proof.Machine

/-- 00EE RET (R140): StackUnderflow at `SP` = 0 (R263), else past the CALL whose address the slot holds. -/
def execRet (s : State) : Result :=
  .next <|
    if s.sp = 0 then s.raise .stackUnderflow (encode .ret) 0
    else (s.setSP (s.sp - 1)).retireAt (s.getSlot s.sp + 2)

/-- 0nnn SYS nnn (R141): the engine halts with cause SysHalt and the instruction retires. -/
def execSys (nnn : Addr12) (s : State) : Result :=
  .next (s.haltWith .sysHalt (encode (.sys nnn)) 0).nextPC

/-- 1nnn JP nnn (R142). -/
def execJp (nnn : Addr12) (s : State) : Result :=
  .next (s.retireAt (zext16 nnn))

/-- 2nnn CALL nnn (R143): StackOverflow at `SP` = 15 (R262), else the address of the CALL itself is pushed. -/
def execCall (nnn : Addr12) (s : State) : Result :=
  .next <|
    if s.sp = 15 then s.raise .stackOverflow (encode (.call nnn)) 15
    else ((s.setSP (s.sp + 1)).setSlot (s.sp + 1) s.pc).retireAt (zext16 nnn)

/-- Bnnn JP V0, nnn (R144): the sum is not reduced below 16 bits. -/
def execJpV0 (nnn : Addr12) (s : State) : Result :=
  .next (s.retireAt (zextByte (s.getV 0) + zext16 nnn))

end Sys2Proof.Machine
end

