-- ==== Sys2Proof/Machine/Display.lean ====
section
/-! DEFINITION. Display (rules R220 to R227): CLS, DRW, the XOR-draw unit. -/

namespace Sys2Proof.Machine

/-- The blank screen (R220). -/
def blankScreen : Vector (BitVec 64) 32 := Vector.replicate 32 0

/-- One sprite row across the screen: its most significant bit in column `vx`, its least significant in column
`vx + 7` (R222), all other columns 0. -/
def spriteMask (b : Byte) (vx : Nat) : BitVec 64 := (b.reverse.setWidth 64) <<< vx

/-- The XOR-draw unit: sprite row `r` is XORed into screen row `vy + r` (R221). No pixel is visited twice (R224), so the
order of the visits in R221 plays no part; `Sys2Proof.drawLoop` in Safety is R221's own loop. -/
def xorDraw (fb : Vector (BitVec 64) 32) (rows : List Byte) (vx vy : Nat) : Vector (BitVec 64) 32 :=
  fb.mapIdx fun y row => if vy ≤ y then row ^^^ spriteMask (rows.getD (y - vy) 0) vx else row

/-- 00E0 CLS (R220). -/
def execCls (s : State) : Result :=
  .next (s.setScreen blankScreen).nextPC

/-- Dxyn DRW Vx, Vy, n (R221): memory range, then pixel rectangle (R271), then the draw; coordinates from before the
write of `VF` (R124). -/
def execDrw (x y n : Nibble) (s : State) : Result :=
  .next <|
    match firstOutside s.i.toNat n.toNat with
    | some a => s.raise .addressOutOfRange (encode (.drw x y n)) a
    | none =>
      if offGrid (s.getV x) (s.getV y) n then
        s.raise .framebufferOutOfRange (encode (.drw x y n)) (s.getV y ++ s.getV x)
      else
        ((s.setScreen (xorDraw s.fb (spriteRows s n) (s.getV x).toNat (s.getV y).toNat)).setV 15
          (flagByte (collides s.fb (spriteRows s n) (s.getV x).toNat (s.getV y).toNat))).nextPC

end Sys2Proof.Machine
end

