-- ==== Sys2Proof/Machine/IndexMemory.lean ====
section
/-! DEFINITION. Index register, loads and stores (rules R200 to R207). The whole address range is checked before the
first access (R127). -/

namespace Sys2Proof.Machine

/-- Annn LD I, nnn (R200). -/
def execLdI (nnn : Addr12) (s : State) : Result :=
  .next (s.setI (zext16 nnn)).nextPC

/-- Fx1E ADD I, Vx (R201): modulo 65536, `VF` unchanged. -/
def execAddIVx (x : Nibble) (s : State) : Result :=
  .next (s.setI (s.i + zextByte (s.getV x))).nextPC

/-- Fx29 LD F, Vx (R202): the whole byte times 5. -/
def execLdFVx (x : Nibble) (s : State) : Result :=
  .next (s.setI (zextByte (s.getV x) * 5)).nextPC

/-- Fx33 LD B, Vx (R203): three decimal digits at `I`; `I` unchanged. -/
def execLdBVx (x : Nibble) (s : State) : Result :=
  .next <|
    match firstOutside s.i.toNat 3 with
    | some a => s.raise .addressOutOfRange (encode (.ldBVx x)) a
    | none => (s.storeBytes s.i.toNat (decimalDigits (s.getV x))).nextPC

/-- Fx55 LD [I], Vx (R204): `V[0]`..`V[x]` stored at `I`, then `I` moves past them. -/
def execLdMemVx (x : Nibble) (s : State) : Result :=
  .next <|
    match firstOutside s.i.toNat (blockLength x) with
    | some a => s.raise .addressOutOfRange (encode (.ldMemVx x)) a
    | none =>
      ((s.storeBytes s.i.toNat (registerBlock s x)).setI (advanceIndex s.i x)).nextPC

/-- Fx65 LD Vx, [I] (R205): `V[0]`..`V[x]` loaded from `I`, then `I` moves past them. -/
def execLdVxMem (x : Nibble) (s : State) : Result :=
  .next <|
    match firstOutside s.i.toNat (blockLength x) with
    | some a => s.raise .addressOutOfRange (encode (.ldVxMem x)) a
    | none =>
      ((s.setRegisters (loadBlock s s.i.toNat x)).setI (advanceIndex s.i x)).nextPC

end Sys2Proof.Machine
end

