-- ==== Sys2Proof/Machine/Skips.lean ====
section
/-! DEFINITION. Conditional skips on registers (rules R160 to R164). -/

namespace Sys2Proof.Machine

/-- 3xkk SE Vx, kk (R160). -/
def execSeImm (x : Nibble) (kk : Byte) (s : State) : Result :=
  .next (s.skipWhen (s.getV x == kk))

/-- 4xkk SNE Vx, kk (R161). -/
def execSneImm (x : Nibble) (kk : Byte) (s : State) : Result :=
  .next (s.skipWhen (s.getV x != kk))

/-- 5xy0 SE Vx, Vy (R162). -/
def execSeReg (x y : Nibble) (s : State) : Result :=
  .next (s.skipWhen (s.getV x == s.getV y))

/-- 9xy0 SNE Vx, Vy (R163). -/
def execSneReg (x y : Nibble) (s : State) : Result :=
  .next (s.skipWhen (s.getV x != s.getV y))

end Sys2Proof.Machine
end

