-- ==== Sys2Proof/Machine/TimersKeypad.lean ====
section
/-! DEFINITION. Timer and keypad instructions (rules R240 to R247). -/

namespace Sys2Proof.Machine

/-- Fx07 LD Vx, DT (R240). -/
def execLdVxDt (x : Nibble) (s : State) : Result :=
  .next (s.setV x s.dt).nextPC

/-- Fx15 LD DT, Vx (R241). -/
def execLdDtVx (x : Nibble) (s : State) : Result :=
  .next (s.setDT (s.getV x)).nextPC

/-- Fx18 LD ST, Vx (R242). -/
def execLdStVx (x : Nibble) (s : State) : Result :=
  .next (s.setST (s.getV x)).nextPC

/-- The key level that the register names: defined for key numbers 0..15 only (R246). -/
def keyLevel (s : State) (x : Nibble) : Option Bool :=
  if (s.getV x).toNat ≤ 15 then some (keyDown s.ports.keys ((s.getV x).setWidth 4)) else none

/-- Ex9E SKP Vx (R243): KeyOutOfRange above key 15 (R266). -/
def execSkp (x : Nibble) (s : State) : Result :=
  .next <|
    match keyLevel s x with
    | none => s.raise .keyOutOfRange (encode (.skp x)) (zextByte (s.getV x))
    | some down => s.skipWhen down

/-- ExA1 SKNP Vx (R244): KeyOutOfRange above key 15 (R266). -/
def execSknp (x : Nibble) (s : State) : Result :=
  .next <|
    match keyLevel s x with
    | none => s.raise .keyOutOfRange (encode (.sknp x)) (zextByte (s.getV x))
    | some down => s.skipWhen (!down)

/-- Fx0A LD Vx, K (R245): with no key pressed the step is Waiting and nothing changes. -/
def execLdVxK (x : Nibble) (s : State) : Result :=
  .next <|
    match s.ports.keyFirst with
    | none => s.endWith .waiting
    | some k => (s.setV x (k.setWidth 8)).nextPC

end Sys2Proof.Machine
end

