-- ==== Sys2Proof/Machine/StepCycle.lean ====
section
/-! DEFINITION. The operation `step()` (rules R120 to R131), written from R120's pseudocode. -/

namespace Sys2Proof.Machine

/-- Fetch, decode, execute, with `running` = 1 (R120, R122, R123): a fetch fault has no word, so its `halt_opcode` is 0
(R264). -/
def fetchDecodeExecute (s : State) : Result :=
  match fetch s with
  | .error a => .next (s.raise .addressOutOfRange 0 a)
  | .ok w =>
    match decode w with
    | .error _ => .next (s.raise .unrecognizedOpcode w 0)
    | .ok i => exec i s

/-- `step()`: nothing when `running` = 0 (R121). -/
def stepBlock (s : State) : Result :=
  if s.running then fetchDecodeExecute s else .next (s.endWith .idle)

end Sys2Proof.Machine
end

