-- ==== Sys2Proof/Machine/Step.lean ====
section
/-! DEFINITION. One step of the machine, and the placement of an instruction where it is fetched. -/

namespace Sys2Proof.Machine

/-- One step: the block's `step()` (R120) on the ports' present values, then the environment's next sample of the
ports. -/
def step (s : State) : Host.Outcome State Fault Refusal := mapNext State.afterStep (stepBlock s)

/-- `s` with the table word `w` stored at `PC`, so that the very next step runs it. -/
def State.withFetchWord (s : State) (nbits w : Nat) : State := s.placeWord (tableWord nbits w)

end Sys2Proof.Machine
end

