-- ==== Sys2Proof/Machine/Operations.lean ====
section
/-! DEFINITION. The operations and host actions around `step` (rules R5, R40, R276 to R287, R300): `initialize`, `load`,
`tick`, `repaint_ack`, `quit`, the driving of the input ports; and sequences of them. -/

namespace Sys2Proof.Machine

/-- `initialize()` (R300, R301): the whole state of the block to its reset values, the fontset copied from the parameter
`FONTSET` (R62). The ports are the host's and keep their values; the count of samples goes on, so that no free value is
drawn twice. -/
def initializeBlock (s : State) : State := { State.resetWith s.fontset with ports := s.ports, sample := s.sample }

/-- A timer counts down and stays at zero (R27, R276). -/
def countDown (t : Byte) : Byte := if t = 0 then 0 else t - 1

/-- `tick()` (R276); nothing when `running` = 0 (R277). -/
def tick (s : State) : State :=
  if s.running then { s with dt := countDown s.dt, st := countDown s.st } else s

/-- The host's quit (R268, R282); nothing when the engine is halted already (R273). -/
def quit (s : State) : State := if s.running then s.haltWith .hostQuit 0 0 else s

/-- The presentation side's acknowledge (R281). -/
def repaintAck (s : State) : State := { s with needsRepaint := false }

/-- The copy of a program image into memory from 0x200 (R77, R283): once, after `initialize` and before the first step
(R40), and at most 0xE00 bytes. -/
def load (image : List Byte) (s : State) : Result :=
  if s.loadOpen then
    if image.length ≤ Config.maxImage then
      .next { s.storeBytes Config.programBase image with loadOpen := false }
    else .refused .imageTooLong
  else .refused .loadClosed

/-- The host drives the input ports for the next step (R279, R280, R287), keeping its duty on the key ports. -/
def drivePorts (p : Ports) (s : State) : Result :=
  if portsConsistent p then .next { s with ports := p } else .refused .inconsistentKeys

/-- The operations and host actions of R287 that change something. -/
inductive Operation where
  /-- `initialize()` (R300). -/
  | reset
  /-- `load(image)` (R283). -/
  | load (image : List Byte)
  /-- `step()` (R120). -/
  | step
  /-- `tick()` (R276). -/
  | tick
  /-- `repaint_ack` (R281). -/
  | repaintAck
  /-- `quit` (R282). -/
  | quit
  /-- A change of `keys`, `key_first` and `rnd` (R279, R280). -/
  | drivePorts (p : Ports)
  deriving DecidableEq, Repr

/-- One operation, whole and atomic (R6). -/
def operate (op : Operation) (s : State) : Result :=
  match op with
  | .reset => .next (initializeBlock s)
  | .load image => load image s
  | .step => step s
  | .tick => .next (tick s)
  | .repaintAck => .next (repaintAck s)
  | .quit => .next (quit s)
  | .drivePorts p => drivePorts p s

/-- Operations one after the other (R6, R70), up to the first that is refused. -/
def runOperations : List Operation → State → Result
  | [], s => .next s
  | op :: ops, s =>
    match operate op s with
    | .next t => runOperations ops t
    | .fault r => .fault r
    | .refused r => .refused r

/-- The host's cycle: `n` = `STEPS_PER_CYCLE` steps, then one tick (R130). -/
def cycleOps (n : Nat) : List Operation := List.replicate n .step ++ [.tick]

/-- The output ports (R7). -/
structure Outputs where
  /-- `fb`. -/
  fb : Vector (BitVec 64) 32
  /-- `needs_repaint`. -/
  needsRepaint : Bool
  /-- `running`. -/
  running : Bool
  /-- `halt_cause`, 4 bits. -/
  haltCause : BitVec 4
  /-- `halt_opcode`. -/
  haltOpcode : Word
  /-- `halt_pc`. -/
  haltPc : Word
  /-- `halt_info`. -/
  haltInfo : Word
  /-- `status`, 2 bits. -/
  status : BitVec 2
  deriving DecidableEq, Repr

/-- What the host reads between two operations (R7, R40). -/
def outputs (s : State) : Outputs :=
  { fb := s.fb
    needsRepaint := s.needsRepaint
    running := s.running
    haltCause := causeCode s.halt.cause
    haltOpcode := s.halt.opcode
    haltPc := s.halt.pc
    haltInfo := s.halt.info
    status := statusCode s.status }

end Sys2Proof.Machine
end

