-- ==== Sys2Proof/Safety.lean ====
section
/-! DEFINITION. The terms the claims use: the machine's invariant, the spec's tables of who writes what (R22, R24, R27,
R28, R31, R67), R221's draw loop in the spec's own order. -/

namespace Sys2Proof

open Sys2Proof.Machine

/-- The halt record agrees with the run state (R35, R269, R308): clear while `running` = 1; once `running` = 0 it names a
cause, and `PC` is the reported address, or the word after it for SYS (R141). -/
def haltReported (s : State) : Prop :=
  if s.running then s.halt = HaltRecord.clear
  else s.halt.cause ≠ .none ∧ s.pc = if s.halt.cause = .sysHalt then s.halt.pc + 2 else s.halt.pc

/-- What holds in every state a run can reach. -/
structure Inv (s : State) : Prop where
  /-- Memory is in canonical form and inside 0x000..0xFFF (R30). -/
  memory : Memory.wf s.fontset s.mem
  /-- `PC` never exceeds 0x10FE (R26). -/
  pcBound : s.pc.toNat ≤ 0x10FE
  /-- A slot holds the address of a fetched CALL or its reset value (R26, R28). -/
  slotBound : ∀ k : Nibble, (s.getSlot k).toNat ≤ 0xFFE
  /-- Slot 0 is never written (R28). -/
  slotZero : s.getSlot 0 = 0
  /-- The halt record agrees with `running` (R35). -/
  report : haltReported s
  /-- The two key ports agree, the host's duty (R279). -/
  portsAgree : portsConsistent s.ports = true

/-- Whether an instruction that retires may write `V[r]`: the write rows of R22's table. -/
def writesRegister (i : Instr) (r : Nibble) : Bool :=
  match i with
  | .ldImm x _ | .addImm x _ | .rnd x _ => r == x
  | .ldReg x _ | .orReg x _ | .andReg x _ | .xorReg x _ => r == x
  | .addReg x _ | .subReg x _ | .shr x _ | .subn x _ | .shl x _ => r == x || r == 15
  | .ldVxDt x | .ldVxK x => r == x
  | .ldVxMem x => decide (r.toNat ≤ x.toNat)
  | .drw _ _ _ => r == 15
  | .cls | .ret | .sys _ | .jp _ | .call _ | .ldI _ | .jpV0 _ => false
  | .seImm _ _ | .sneImm _ _ | .seReg _ _ | .sneReg _ _ => false
  | .skp _ | .sknp _ | .ldDtVx _ | .ldStVx _ | .addIVx _ | .ldFVx _ | .ldBVx _ | .ldMemVx _ => false

/-- Whether an instruction may write `I` (R24). -/
def writesIndex (i : Instr) : Bool :=
  match i with
  | .ldI _ | .addIVx _ | .ldFVx _ | .ldMemVx _ | .ldVxMem _ => true
  | _ => false

/-- The bytes an instruction stores to, as first address and count: the write rows of R67's table. The address is the
one the meanings use, `I`. -/
def storeRange (i : Instr) (s : State) : Option (Nat × Nat) :=
  match i with
  | .ldBVx _ => some (s.i.toNat, 3)
  | .ldMemVx x => some (s.i.toNat, blockLength x)
  | _ => none

/-- Whether the instruction looks at the key ports (R247). -/
def readsKeys (i : Instr) : Bool :=
  match i with
  | .skp _ | .sknp _ | .ldVxK _ => true
  | _ => false

/-- Whether the instruction is RND, the only reader of the random port (R280). -/
def readsRandom (i : Instr) : Bool :=
  match i with
  | .rnd _ _ => true
  | _ => false

/-- `t` is `s` after an instruction that retires to the next word with `V[x] <- b` and no other effect. -/
def RetiresWithV (s t : State) (x : Nibble) (b : Byte) : Prop :=
  t = { s with v := t.v, pc := s.pc + 2, status := .retired } ∧ ∀ r, t.getV r = if r = x then b else s.getV r

/-- `t` is `s` after an instruction that retires to the next word with `V[15] <- flag`, then `V[x] <- result` (R171),
and no other effect. -/
def RetiresWithFlagAndV (s t : State) (flag : Byte) (x : Nibble) (result : Byte) : Prop :=
  t = { s with v := t.v, pc := s.pc + 2, status := .retired } ∧
  ∀ r, t.getV r = if r = x then result else if r = 15 then flag else s.getV r

/-- `s` after the fault entry of R269 with this cause, word and information, written out field by field. -/
def faultedState (s : State) (cause : HaltCause) (opcode info : Word) : State :=
  { s with
    running := false
    halt := { cause := cause, opcode := opcode, pc := s.pc, info := info }
    status := .faulted }

/-- A DRW of `n` rows at (`V[x]`, `V[y]`) is legal: it has no rows, or its bytes lie in memory and its rectangle in the
grid (R223, R225, R264). -/
def drawLegal (x y n : Nibble) (s : State) : Prop :=
  n = 0 ∨ (s.i.toNat + n.toNat ≤ 0x1000 ∧ (s.getV x).toNat ≤ 56 ∧ (s.getV y).toNat + n.toNat ≤ 32)

/-- The sprite bit that a DRW brings to row `row`, column `col` of its rectangle (R221, R222). -/
def memorySpriteBit (s : State) (row col : Nat) : Bool :=
  (s.byteAt (s.i.toNat + row)).getLsbD (7 - col)

/-- `fb[y][x] <- b` (R10). -/
def setPixel (fb : Vector (BitVec 64) 32) (x y : Nat) (b : Bool) : Vector (BitVec 64) 32 :=
  fb.mapIdx fun k row =>
    if k = y then (if b then row ||| (1#64 <<< x) else row &&& ~~~(1#64 <<< x)) else row

/-- The body of R221's inner loop: one column of one sprite row, on the screen and `VF` as they are. -/
def drawPixel (rows : List Byte) (vx vy row : Nat) (acc : Vector (BitVec 64) 32 × Byte) (col : Nat) :
    Vector (BitVec 64) 32 × Byte :=
  (setPixel acc.1 (vx + col) (vy + row) (pixel acc.1 (vx + col) (vy + row) ^^ spriteBit rows row col),
    if spriteBit rows row col && pixel acc.1 (vx + col) (vy + row) then 1 else acc.2)

/-- R221's loop: `V[15] <- 0`, then rows ascending, columns ascending. -/
def drawLoop (fb : Vector (BitVec 64) 32) (rows : List Byte) (vx vy : Nat) : Vector (BitVec 64) 32 × Byte :=
  (List.range rows.length).foldl
    (fun acc row => (List.range 8).foldl (drawPixel rows vx vy row) acc) (fb, 0)

end Sys2Proof
end

