-- ==== Sys2Proof/Certificates/Slice0/Obligations.lean ====
section
/-! DEFINITION. The statements for the provers, from the spec's numbered rules. -/

open Sys2Proof Sys2Proof.Machine

/-! ### Encoding -/

/-- R101: the source's four encodings, byte at the lower address first. -/
def Obligations.SourceEncodingsDecode : Prop :=
  decodeBytes [0x6A, 0x02] = .ok (.ldImm 0xA 0x02, []) ∧
  decodeBytes [0x6B, 0x03] = .ok (.ldImm 0xB 0x03, []) ∧
  decodeBytes [0x8A, 0xB4] = .ok (.addReg 0xA 0xB, []) ∧
  decodeBytes [0x50, 0x01] = .error (.unrecognizedOpcode 0x5001)

/-- R95: one word of every family, written out from its pattern. -/
def Obligations.FamilyWordsDecode : Prop :=
  decode 0x00EE = .ok .ret ∧ decode 0x0123 = .ok (.sys 0x123) ∧ decode 0xB300 = .ok (.jpV0 0x300) ∧
  decode 0x432A = .ok (.sneImm 3 0x2A) ∧ decode 0x5120 = .ok (.seReg 1 2) ∧
  decode 0x812E = .ok (.shl 1 2) ∧ decode 0xC30F = .ok (.rnd 3 0x0F) ∧
  decode 0xA301 = .ok (.ldI 0x301) ∧ decode 0xF165 = .ok (.ldVxMem 1) ∧
  decode 0x00E0 = .ok .cls ∧ decode 0xD125 = .ok (.drw 1 2 5) ∧
  decode 0xE3A1 = .ok (.sknp 3) ∧ decode 0xF30A = .ok (.ldVxK 3)

/-- Decoding the word of a well-formed instruction gives it back, every operand at every value. -/
def Obligations.DecodeOfEncode : Prop :=
  ∀ i : Instr, i.wellFormed = true → decode (encode i) = .ok i

/-- The instruction read from a word is well-formed and its word is that word: no two words read alike. -/
def Obligations.EncodeOfDecode : Prop :=
  ∀ (w : Word) (i : Instr), decode w = .ok i → encode i = w ∧ i.wellFormed = true

/-- R95: a word decodes into a row of the opcode map exactly when the row's mask and match select it, 00E0 and 00EE being
tested before the SYS row. -/
def Obligations.DecodeSelectsOpcodeRow : Prop :=
  ∀ (w : Word) (i : Instr),
    (∃ j, decode w = .ok j ∧ opcodeRow j = opcodeRow i) ↔
      (w &&& (opcodeRow i).1 = (opcodeRow i).2 ∧
        (opcodeRow i = (0xF000, 0x0000) → w ≠ 0x00E0 ∧ w ≠ 0x00EE))

/-- R96: the unrecognized words, class by class; every other word decodes to an instruction (R94). -/
def Obligations.UnrecognizedWords : Prop :=
  ∀ w : Word,
    (decode w = .error (.unrecognizedOpcode w) ↔
      (fieldClass w = 0x5 ∧ fieldN w ≠ 0) ∨
      (fieldClass w = 0x8 ∧ fieldN w ∈ [0x8, 0x9, 0xA, 0xB, 0xC, 0xD, 0xF]) ∨
      (fieldClass w = 0x9 ∧ fieldN w ≠ 0) ∨
      (fieldClass w = 0xE ∧ fieldKk w ∉ [0x9E, 0xA1]) ∨
      (fieldClass w = 0xF ∧ fieldKk w ∉ [0x07, 0x0A, 0x15, 0x18, 0x1E, 0x29, 0x33, 0x55, 0x65])) ∧
    (decode w = .error (.unrecognizedOpcode w) ∨ ∃ i, decode w = .ok i)

/-! ### The step -/

/-- R120, R64: when the two bytes at `PC` decode to an instruction, the step is `exec` of it on this state, then
`afterStep`, which touches no element of the block's own state: the next port sample, the sample count and `loadOpen` are
the model's choice, assumption log 2, 3, 5. -/
def Obligations.StepRunsDecodedInstruction : Prop :=
  ∀ (s : State) (i : Instr), s.running = true → s.pc.toNat ≤ 0xFFE →
    decodeBytes [s.byteAt s.pc.toNat, s.byteAt (s.pc.toNat + 1)] = .ok (i, []) →
    step s = mapNext State.afterStep (exec i s)

/-- R64: the fetch is big-endian and checks both bytes; with `PC > 0xFFE` the step faults with AddressOutOfRange, the
first address above 0xFFF, and no word (the check and its fault are the spec's decision D3). The step ends, as every step
of the model, with `afterStep`: the next port sample, the sample count and `loadOpen` are the model's choice, assumption
log 2, 3, 5. -/
def Obligations.FetchIsBigEndianAndChecked : Prop :=
  ∀ s : State,
    (s.pc.toNat ≤ 0xFFE →
      ∃ w, fetch s = .ok w ∧
        w.toNat = (s.byteAt s.pc.toNat).toNat * 256 + (s.byteAt (s.pc.toNat + 1)).toNat) ∧
    (0xFFE < s.pc.toNat → s.running = true →
      step s = .next
        (faultedState s .addressOutOfRange 0x0000
          (if s.pc.toNat = 0xFFF then 0x1000 else s.pc)).afterStep)

/-- R261, R123: a word that decodes to nothing halts the engine, `PC` staying at it (the spec's decision D15) and the
report in the halt record (D27). The step ends with `afterStep`: the next port sample, the sample count and `loadOpen` are
the model's choice, assumption log 2, 3, 5. -/
def Obligations.UnrecognizedOpcodeHalts : Prop :=
  ∀ (s : State) (w : Word) (e : Reject), s.running = true → fetch s = .ok w → decode w = .error e →
    step s = .next (faultedState s .unrecognizedOpcode w 0).afterStep

/-- R121: a halted engine's step changes nothing of the block, status Idle (the spec's decisions D16, D29).
The step ends with `afterStep`: the next port sample, the sample count and `loadOpen` are the model's choice, assumption
log 2, 3, 5. -/
def Obligations.HaltedStepIsIdle : Prop :=
  ∀ s : State, s.running = false → step s = .next ({ s with status := .idle }).afterStep

/-- R128: every step answers one of the four statuses, which tells what it did, with the codes of the table (the spec's
decision D29). A faulting step's halt record is left open here: FaultsArePrecise says what it holds. Every step ends with
`afterStep`: the next port sample, the sample count and `loadOpen` are the model's choice, assumption log 2, 3, 5. -/
def Obligations.StatusTellsWhatTheStepDid : Prop :=
  (statusCode .idle = 0 ∧ statusCode .retired = 1 ∧ statusCode .waiting = 2 ∧ statusCode .faulted = 3) ∧
  ∀ s : State, ∃ t, step s = .next t ∧
    (t.status = .idle ↔ s.running = false) ∧
    (t.status = .idle → t = ({ s with status := .idle }).afterStep) ∧
    (t.status = .retired →
      ∃ w i u, fetch s = .ok w ∧ decode w = .ok i ∧ exec i s = .next u ∧ t = u.afterStep ∧
        (t.running = false ↔ ∃ nnn, i = .sys nnn)) ∧
    (t.status = .waiting →
      (∃ w x, fetch s = .ok w ∧ decode w = .ok (.ldVxK x)) ∧ s.ports.keyFirst = none ∧
        t = ({ s with status := .waiting }).afterStep) ∧
    (t.status = .faulted → t = ({ s with running := false, halt := t.halt, status := .faulted }).afterStep)

/-- R127, R269, R270: a step that faults changes `running` and the halt record and nothing else; the record names a
fault cause, the fetched word (0x0000 when none was fetched) and the address, at which `PC` stays. The spec's decisions
D13, D15 and D27. The step ends with `afterStep`: the next port sample, the sample count and `loadOpen` are the model's
choice, assumption log 2, 3, 5. -/
def Obligations.FaultsArePrecise : Prop :=
  ∀ s t : State, step s = .next t → t.status = .faulted →
    s.running = true ∧
    t = ({ s with running := false, halt := t.halt, status := .faulted }).afterStep ∧
    t.halt.pc = s.pc ∧ t.pc = s.pc ∧
    (1 ≤ (causeCode t.halt.cause).toNat ∧ (causeCode t.halt.cause).toNat ≤ 6) ∧
    (∀ w, fetch s = .ok w → t.halt.opcode = w) ∧
    (∀ a, fetch s = .error a → t.halt.opcode = 0x0000)

/-- R131, what a step never does: it touches `DT` only by Fx15 and `ST` only by Fx18, never clears `needs_repaint`, never
sets `running`, never writes the halt record while `running` stays 1. -/
def Obligations.WhatAStepNeverDoes : Prop :=
  ∀ s t : State, step s = .next t →
    (t.dt ≠ s.dt → ∃ w x, fetch s = .ok w ∧ decode w = .ok (.ldDtVx x)) ∧
    (t.st ≠ s.st → ∃ w x, fetch s = .ok w ∧ decode w = .ok (.ldStVx x)) ∧
    (s.needsRepaint = true → t.needsRepaint = true) ∧
    (t.running = true → s.running = true) ∧
    (t.running = true → t.halt = s.halt)

/-- R35, R273: but for `initialize`, no operation writes the halt record except at the transition of `running` from 1 to
0, where it names a cause and the address `PC` had, and none sets `running` again. The record is the spec's decision
D27. -/
def Obligations.HaltRecordWrittenOnce : Prop :=
  ∀ (op : Operation) (s t : State), operate op s = .next t → op ≠ .reset →
    (s.running = t.running → t.halt = s.halt) ∧ (s.running = false → t.running = false) ∧
    (s.running = true → t.running = false → t.halt.cause ≠ .none ∧ t.halt.pc = s.pc)

/-! ### Frames -/

/-- R22, R23: an instruction leaves every general register unchanged that the write rows of R22's table do not give it;
`VF` among them. Whatever way it ends. -/
def Obligations.FrameOfRegisters : Prop :=
  ∀ (i : Instr) (s t : State) (r : Nibble), exec i s = .next t → writesRegister i r = false → t.getV r = s.getV r

/-- R24, R27: only Annn, Fx1E, Fx29, Fx55, Fx65 write `I`; only Fx15 writes `DT`; only Fx18 writes `ST`. -/
def Obligations.FrameOfIndexAndTimers : Prop :=
  ∀ (i : Instr) (s t : State), exec i s = .next t →
    (writesIndex i = false → t.i = s.i) ∧
    ((∀ x, i ≠ .ldDtVx x) → t.dt = s.dt) ∧
    ((∀ x, i ≠ .ldStVx x) → t.st = s.st)

/-- R28, R29: only CALL writes a slot, the one at `SP + 1`, never slot 0; only CALL and RET move `SP`. That slot 0 is never
written is R28's derivation, from the check of decision D4. -/
def Obligations.FrameOfCallStack : Prop :=
  ∀ (i : Instr) (s t : State), exec i s = .next t →
    ((∀ nnn, i ≠ .call nnn) → t.stack = s.stack) ∧
    ((∀ nnn, i ≠ .call nnn) → i ≠ .ret → t.sp = s.sp) ∧
    (∀ k, k ≠ s.sp + 1 → t.getSlot k = s.getSlot k) ∧
    t.getSlot 0 = s.getSlot 0

/-- R31, R33: only CLS and DRW change the framebuffer or `needs_repaint`. -/
def Obligations.FrameOfScreen : Prop :=
  ∀ (i : Instr) (s t : State), exec i s = .next t → i ≠ .cls → (∀ x y n, i ≠ .drw x y n) →
    t.fb = s.fb ∧ t.needsRepaint = s.needsRepaint

/-- R67: every byte of memory is unchanged but the bytes Fx33 and Fx55 store to, from `I` on. -/
def Obligations.FrameOfMemory : Prop :=
  ∀ (i : Instr) (s t : State) (a : Nat), exec i s = .next t →
    (∀ base n, storeRange i s = some (base, n) → a < base ∨ base + n ≤ a) →
    t.byteAt a = s.byteAt a

/-- R34, R35: an instruction that retires leaves `running` and the halt record unchanged unless it is SYS; and no
instruction touches the input ports or the parameter `FONTSET` (R8; assumption log 2, 3, 18). -/
def Obligations.FrameOfRunState : Prop :=
  ∀ (i : Instr) (s t : State), exec i s = .next t →
    (t.status = .retired → (∀ nnn, i ≠ .sys nnn) → t.running = s.running ∧ t.halt = s.halt) ∧
    t.ports = s.ports ∧ t.fontset = s.fontset

/-! ### Control transfer -/

/-- R140, R263: RET; its fault is the spec's decision D4. -/
def Obligations.ReturnPopsTheStack : Prop :=
  decode 0x00EE = .ok .ret ∧
  ∀ s : State,
    (s.sp ≠ 0 → ∃ t, exec .ret s = .next t ∧
      t = { s with pc := t.pc, sp := t.sp, status := .retired } ∧
      t.pc.toNat = ((s.getSlot s.sp).toNat + 2) % 65536 ∧ t.sp.toNat + 1 = s.sp.toNat) ∧
    (s.sp = 0 → exec .ret s = .next (faultedState s .stackUnderflow 0x00EE 0))

/-- R141, R267: SYS; that it advances `PC` and that it is reported are the spec's decision D14. -/
def Obligations.SysHaltsTheEngine : Prop :=
  ∀ (nnn : Addr12) (s : State),
    (nnn ≠ 0x0E0 → nnn ≠ 0x0EE → decode (packNnn 0x0 nnn) = .ok (.sys nnn)) ∧
    exec (.sys nnn) s = .next
      { s with
        running := false
        halt := { cause := .sysHalt, opcode := packNnn 0x0 nnn, pc := s.pc, info := 0 }
        pc := s.pc + 2
        status := .retired }

/-- R142, R144: JP and JP V0. -/
def Obligations.JumpsSetThePc : Prop :=
  ∀ (nnn : Addr12) (s : State),
    decode (packNnn 0x1 nnn) = .ok (.jp nnn) ∧ decode (packNnn 0xB nnn) = .ok (.jpV0 nnn) ∧
    (∃ t, exec (.jp nnn) s = .next t ∧ t = { s with pc := t.pc, status := .retired } ∧ t.pc.toNat = nnn.toNat) ∧
    (∃ t, exec (.jpV0 nnn) s = .next t ∧ t = { s with pc := t.pc, status := .retired } ∧
      t.pc.toNat = (s.getV 0).toNat + nnn.toNat)

/-- R143, R262: CALL; its fault is the spec's decision D4. -/
def Obligations.CallPushesItsAddress : Prop :=
  ∀ (nnn : Addr12) (s : State),
    decode (packNnn 0x2 nnn) = .ok (.call nnn) ∧
    (s.sp ≠ 15 → ∃ t, exec (.call nnn) s = .next t ∧
      t = { s with pc := t.pc, sp := t.sp, stack := t.stack, status := .retired } ∧
      t.sp.toNat = s.sp.toNat + 1 ∧ t.pc.toNat = nnn.toNat ∧
      ∀ k, t.getSlot k = if k.toNat = s.sp.toNat + 1 then s.pc else s.getSlot k) ∧
    (s.sp = 15 → exec (.call nnn) s = .next (faultedState s .stackOverflow (packNnn 0x2 nnn) 15))

/-- R145: a CALL to a RET comes back to the word after the CALL, with `SP` as before: the spec derives it from R140 and
R143. -/
def Obligations.CallThenReturnComesBack : Prop :=
  ∀ (nnn : Addr12) (s : State), s.running = true → s.sp ≠ 15 → fetch s = .ok (packNnn 0x2 nnn) →
    nnn.toNat ≤ 0xFFE → s.byteAt nnn.toNat = 0x00 → s.byteAt (nnn.toNat + 1) = 0xEE →
    ∃ t u, step s = .next t ∧ step t = .next u ∧
      t.sp.toNat = s.sp.toNat + 1 ∧ t.getSlot t.sp = s.pc ∧ t.pc.toNat = nnn.toNat ∧
      u.pc.toNat = s.pc.toNat + 2 ∧ u.sp = s.sp

/-! ### Skips -/

/-- R160 to R163: SE and SNE; the neighbouring words 5xyN and 9xyN with N not 0 are no instruction. -/
def Obligations.SkipsCompareBytes : Prop :=
  ∀ (x y : Nibble) (kk : Byte) (s : State),
    decode (packXKk 0x3 x kk) = .ok (.seImm x kk) ∧ decode (packXKk 0x4 x kk) = .ok (.sneImm x kk) ∧
    decode (packXYN 0x5 x y 0x0) = .ok (.seReg x y) ∧ decode (packXYN 0x9 x y 0x0) = .ok (.sneReg x y) ∧
    (∀ n, n ≠ 0 →
      decode (packXYN 0x5 x y n) = .error (.unrecognizedOpcode (packXYN 0x5 x y n)) ∧
      decode (packXYN 0x9 x y n) = .error (.unrecognizedOpcode (packXYN 0x9 x y n))) ∧
    exec (.seImm x kk) s = .next
      { s with pc := if (s.getV x).toNat = kk.toNat then s.pc + 4 else s.pc + 2, status := .retired } ∧
    exec (.sneImm x kk) s = .next
      { s with pc := if (s.getV x).toNat = kk.toNat then s.pc + 2 else s.pc + 4, status := .retired } ∧
    exec (.seReg x y) s = .next
      { s with pc := if (s.getV x).toNat = (s.getV y).toNat then s.pc + 4 else s.pc + 2, status := .retired } ∧
    exec (.sneReg x y) s = .next
      { s with pc := if (s.getV x).toNat = (s.getV y).toNat then s.pc + 2 else s.pc + 4, status := .retired }

/-! ### ALU -/

/-- R172 to R174: the two loads and the immediate add. -/
def Obligations.LoadsAndImmediateAdd : Prop :=
  ∀ (x y : Nibble) (kk : Byte) (s : State),
    decode (packXKk 0x6 x kk) = .ok (.ldImm x kk) ∧ decode (packXKk 0x7 x kk) = .ok (.addImm x kk) ∧
    decode (packXYN 0x8 x y 0x0) = .ok (.ldReg x y) ∧
    (∃ t, exec (.ldImm x kk) s = .next t ∧ RetiresWithV s t x kk) ∧
    (∃ t, exec (.addImm x kk) s = .next t ∧
      RetiresWithV s t x (BitVec.ofNat 8 (((s.getV x).toNat + kk.toNat) % 256))) ∧
    (∃ t, exec (.ldReg x y) s = .next t ∧ RetiresWithV s t x (s.getV y))

/-- R175 to R177: OR, AND, XOR, bit by bit, `VF` unchanged unless it is the destination. -/
def Obligations.LogicIsBitwise : Prop :=
  ∀ (x y : Nibble) (s : State),
    decode (packXYN 0x8 x y 0x1) = .ok (.orReg x y) ∧ decode (packXYN 0x8 x y 0x2) = .ok (.andReg x y) ∧
    decode (packXYN 0x8 x y 0x3) = .ok (.xorReg x y) ∧
    (∃ t b, exec (.orReg x y) s = .next t ∧ RetiresWithV s t x b ∧
      ∀ k, b.getLsbD k = ((s.getV x).getLsbD k || (s.getV y).getLsbD k)) ∧
    (∃ t b, exec (.andReg x y) s = .next t ∧ RetiresWithV s t x b ∧
      ∀ k, b.getLsbD k = ((s.getV x).getLsbD k && (s.getV y).getLsbD k)) ∧
    (∃ t b, exec (.xorReg x y) s = .next t ∧ RetiresWithV s t x b ∧
      ∀ k, b.getLsbD k = ((s.getV x).getLsbD k ^^ (s.getV y).getLsbD k))

/-- R178: ADD Vx, Vy, every aliasing of `x`, `y` and `VF` included (the spec's decision D1). -/
def Obligations.AddSetsCarry : Prop :=
  ∀ (x y : Nibble) (s : State),
    decode (packXYN 0x8 x y 0x4) = .ok (.addReg x y) ∧
    ∃ t, exec (.addReg x y) s = .next t ∧
      RetiresWithFlagAndV s t (if (s.getV x).toNat + (s.getV y).toNat > 255 then 1 else 0)
        x (BitVec.ofNat 8 (((s.getV x).toNat + (s.getV y).toNat) % 256))

/-- R179, R181: SUB and SUBN, the flag strict (G4), every aliasing included (the spec's decision D1). -/
def Obligations.SubtractSetsGreater : Prop :=
  ∀ (x y : Nibble) (s : State),
    decode (packXYN 0x8 x y 0x5) = .ok (.subReg x y) ∧ decode (packXYN 0x8 x y 0x7) = .ok (.subn x y) ∧
    (∃ t, exec (.subReg x y) s = .next t ∧
      RetiresWithFlagAndV s t (if (s.getV x).toNat > (s.getV y).toNat then 1 else 0)
        x (BitVec.ofNat 8 (((s.getV x).toNat + 256 - (s.getV y).toNat) % 256))) ∧
    (∃ t, exec (.subn x y) s = .next t ∧
      RetiresWithFlagAndV s t (if (s.getV y).toNat > (s.getV x).toNat then 1 else 0)
        x (BitVec.ofNat 8 (((s.getV y).toNat + 256 - (s.getV x).toNat) % 256)))

/-- R180, R182: SHR and SHL take `V[y]`; both flags are bit 0 of `V[y]` (for SHL see G3), every aliasing included (the
spec's decision D1). -/
def Obligations.ShiftsTakeVy : Prop :=
  ∀ (x y : Nibble) (s : State),
    decode (packXYN 0x8 x y 0x6) = .ok (.shr x y) ∧ decode (packXYN 0x8 x y 0xE) = .ok (.shl x y) ∧
    (∃ t, exec (.shr x y) s = .next t ∧
      RetiresWithFlagAndV s t (BitVec.ofNat 8 ((s.getV y).toNat % 2)) x (BitVec.ofNat 8 ((s.getV y).toNat / 2))) ∧
    (∃ t, exec (.shl x y) s = .next t ∧
      RetiresWithFlagAndV s t (BitVec.ofNat 8 ((s.getV y).toNat % 2))
        x (BitVec.ofNat 8 ((s.getV y).toNat * 2 % 256)))

/-- R183: RND, for every byte on the port (the spec's decision D12; assumption log 3). -/
def Obligations.RandomByteIsMasked : Prop :=
  ∀ (x : Nibble) (kk r : Byte) (s : State), s.ports.rnd = r →
    decode (packXKk 0xC x kk) = .ok (.rnd x kk) ∧
    ∃ t b, exec (.rnd x kk) s = .next t ∧ RetiresWithV s t x b ∧
      ∀ k, b.getLsbD k = (r.getLsbD k && kk.getLsbD k)

/-! ### Index register and memory -/

/-- R200 to R202: LD I, ADD I, LD F; that ADD I wraps at 65536 is the spec's decision D20, that LD F takes the whole byte
its decision D21. -/
def Obligations.IndexArithmetic : Prop :=
  ∀ (x : Nibble) (nnn : Addr12) (s : State),
    decode (packNnn 0xA nnn) = .ok (.ldI nnn) ∧ decode (packXKk 0xF x 0x1E) = .ok (.addIVx x) ∧
    decode (packXKk 0xF x 0x29) = .ok (.ldFVx x) ∧
    (∃ t, exec (.ldI nnn) s = .next t ∧ t = { s with i := t.i, pc := s.pc + 2, status := .retired } ∧
      t.i.toNat = nnn.toNat) ∧
    (∃ t, exec (.addIVx x) s = .next t ∧ t = { s with i := t.i, pc := s.pc + 2, status := .retired } ∧
      t.i.toNat = (s.i.toNat + (s.getV x).toNat) % 65536) ∧
    (∃ t, exec (.ldFVx x) s = .next t ∧ t = { s with i := t.i, pc := s.pc + 2, status := .retired } ∧
      t.i.toNat = (s.getV x).toNat * 5)

/-- R203: LD B, on a memory in canonical form; and its fault, checked first (the spec's decisions D3, D13). -/
def Obligations.StoreDecimalDigits : Prop :=
  ∀ (x : Nibble) (s : State),
    decode (packXKk 0xF x 0x33) = .ok (.ldBVx x) ∧
    (Memory.wf s.fontset s.mem → s.i.toNat ≤ 0xFFD → ∃ t, exec (.ldBVx x) s = .next t ∧
      t = { s with mem := t.mem, pc := s.pc + 2, status := .retired } ∧
      (t.byteAt s.i.toNat).toNat = (s.getV x).toNat / 100 ∧
      (t.byteAt (s.i.toNat + 1)).toNat = (s.getV x).toNat / 10 % 10 ∧
      (t.byteAt (s.i.toNat + 2)).toNat = (s.getV x).toNat % 10 ∧
      ∀ a, a < s.i.toNat ∨ s.i.toNat + 2 < a → t.byteAt a = s.byteAt a) ∧
    (0xFFD < s.i.toNat →
      exec (.ldBVx x) s = .next (faultedState s .addressOutOfRange (packXKk 0xF x 0x33)
        (if s.i.toNat ≤ 0x1000 then 0x1000 else s.i)))

/-- R204: LD [I], Vx, on a memory in canonical form; and its fault, checked first (the spec's decisions D3, D13). -/
def Obligations.StoreRegisterBlock : Prop :=
  ∀ (x : Nibble) (s : State),
    decode (packXKk 0xF x 0x55) = .ok (.ldMemVx x) ∧
    (Memory.wf s.fontset s.mem → s.i.toNat + x.toNat ≤ 0xFFF → ∃ t, exec (.ldMemVx x) s = .next t ∧
      t = { s with mem := t.mem, i := t.i, pc := s.pc + 2, status := .retired } ∧
      t.i.toNat = s.i.toNat + x.toNat + 1 ∧
      (∀ k : Nibble, k.toNat ≤ x.toNat → t.byteAt (s.i.toNat + k.toNat) = s.getV k) ∧
      ∀ a, a < s.i.toNat ∨ s.i.toNat + x.toNat < a → t.byteAt a = s.byteAt a) ∧
    (0xFFF < s.i.toNat + x.toNat →
      exec (.ldMemVx x) s = .next (faultedState s .addressOutOfRange (packXKk 0xF x 0x55)
        (if s.i.toNat ≤ 0x1000 then 0x1000 else s.i)))

/-- R205: LD Vx, [I]; and its fault, checked first (the spec's decisions D3, D13). -/
def Obligations.LoadRegisterBlock : Prop :=
  ∀ (x : Nibble) (s : State),
    decode (packXKk 0xF x 0x65) = .ok (.ldVxMem x) ∧
    (s.i.toNat + x.toNat ≤ 0xFFF → ∃ t, exec (.ldVxMem x) s = .next t ∧
      t = { s with v := t.v, i := t.i, pc := s.pc + 2, status := .retired } ∧
      t.i.toNat = s.i.toNat + x.toNat + 1 ∧
      ∀ r : Nibble, t.getV r =
        if r.toNat ≤ x.toNat then s.byteAt (s.i.toNat + r.toNat) else s.getV r) ∧
    (0xFFF < s.i.toNat + x.toNat →
      exec (.ldVxMem x) s = .next (faultedState s .addressOutOfRange (packXKk 0xF x 0x65)
        (if s.i.toNat ≤ 0x1000 then 0x1000 else s.i)))

/-- R204, R205, R206 (the variant of decision D8): what Fx55 stores, Fx65 at the same `I` loads back, whatever
the registers hold by then. -/
def Obligations.StoreThenLoadRestores : Prop :=
  ∀ (x : Nibble) (s t : State) (w : Vector Byte 16), Memory.wf s.fontset s.mem → s.i.toNat + x.toNat ≤ 0xFFF →
    exec (.ldMemVx x) s = .next t →
    ∃ u, exec (.ldVxMem x) { t with i := s.i, v := w } = .next u ∧
      u.i.toNat = s.i.toNat + x.toNat + 1 ∧
      ∀ r : Nibble, u.getV r = if r.toNat ≤ x.toNat then s.getV r else w[r.toNat]'r.isLt

/-- R72: the bytes Fx55 stores over the next instruction are the word fetched next: the spec derives it from R64 and R70. -/
def Obligations.StoresAreSeenByTheNextFetch : Prop :=
  ∀ (x j k : Nibble) (s t : State), Memory.wf s.fontset s.mem → s.i.toNat + x.toNat ≤ 0xFFF →
    exec (.ldMemVx x) s = .next t →
    k.toNat = j.toNat + 1 → k.toNat ≤ x.toNat → s.pc.toNat + 2 = s.i.toNat + j.toNat →
    ∃ w, fetch t = .ok w ∧ w.toNat = (s.getV j).toNat * 256 + (s.getV k).toNat

/-! ### Display -/

/-- R220: CLS. -/
def Obligations.ClearScreen : Prop :=
  decode 0x00E0 = .ok .cls ∧
  ∀ s : State, ∃ t, exec .cls s = .next t ∧
    t = { s with fb := t.fb, needsRepaint := true, pc := s.pc + 2, status := .retired } ∧
    ∀ px < 64, ∀ py < 32, pixel t.fb px py = false

/-- R221, R222, R224, R225, R226: a legal DRW, pixel by pixel, and its collision flag. The bit order of R222 is the spec's
decision D6 (assumption log 7), the repaint flag its decision D7, the coordinates from before the write of `VF` its
decision D1. -/
def Obligations.DrawXorsTheSprite : Prop :=
  ∀ (x y n : Nibble) (s : State),
    decode (packXYN 0xD x y n) = .ok (.drw x y n) ∧
    (drawLegal x y n s → ∃ t, exec (.drw x y n) s = .next t ∧
      t = { s with v := t.v, fb := t.fb, needsRepaint := true, pc := s.pc + 2, status := .retired } ∧
      (∀ px < 64, ∀ py < 32, pixel t.fb px py =
        (pixel s.fb px py ^^
          (if (s.getV x).toNat ≤ px ∧ px < (s.getV x).toNat + 8 ∧
              (s.getV y).toNat ≤ py ∧ py < (s.getV y).toNat + n.toNat
            then memorySpriteBit s (py - (s.getV y).toNat) (px - (s.getV x).toNat) else false))) ∧
      (∀ r, r ≠ 15 → t.getV r = s.getV r) ∧
      ((∃ row < n.toNat, ∃ col < 8, memorySpriteBit s row col = true ∧
          pixel s.fb ((s.getV x).toNat + col) ((s.getV y).toNat + row) = true) → t.getV 15 = 1) ∧
      ((¬∃ row < n.toNat, ∃ col < 8, memorySpriteBit s row col = true ∧
          pixel s.fb ((s.getV x).toNat + col) ((s.getV y).toNat + row) = true) → t.getV 15 = 0))

/-- R223, R264, R265, R271: a DRW with rows faults when its bytes leave memory, and otherwise when its rectangle leaves
the grid. The spec's decisions D3, D5 and D26. -/
def Obligations.DrawOutOfRangeFaults : Prop :=
  ∀ (x y n : Nibble) (s : State), n ≠ 0 →
    (0x1000 < s.i.toNat + n.toNat →
      exec (.drw x y n) s = .next (faultedState s .addressOutOfRange (packXYN 0xD x y n)
        (if s.i.toNat ≤ 0x1000 then 0x1000 else s.i))) ∧
    (s.i.toNat + n.toNat ≤ 0x1000 → 56 < (s.getV x).toNat ∨ 32 < (s.getV y).toNat + n.toNat →
      exec (.drw x y n) s = .next (faultedState s .framebufferOutOfRange (packXYN 0xD x y n)
        (BitVec.ofNat 16 ((s.getV y).toNat * 256 + (s.getV x).toNat))))

/-- R221: the draw unit and the collision detector compute what R221's loop computes, in the loop's own order of reads
and writes, on the bit order of D6 (assumption log 7). -/
def Obligations.DrawRefinesTheLoop : Prop :=
  ∀ (x y n : Nibble) (s : State), drawLegal x y n s →
    ∃ t, exec (.drw x y n) s = .next t ∧
      (t.fb, t.getV 15) =
        drawLoop s.fb (s.bytesAt s.i.toNat n.toNat) (s.getV x).toNat (s.getV y).toNat

/-- R227(b): two identical DRWs restore the framebuffer; the second collides exactly where a sprite bit met a dark pixel
the first time. The coordinates are registers other than `VF`, which the first DRW overwrites. That the bounds are
checked (D5) makes it exact; which pixel each bit of a sprite byte meets is the spec's decision D6, PRESUMED (assumption
log 7). -/
def Obligations.DrawTwiceRestores : Prop :=
  ∀ (x y n : Nibble) (s t : State), x ≠ 15 → y ≠ 15 → drawLegal x y n s → exec (.drw x y n) s = .next t →
    ∃ u, exec (.drw x y n) t = .next u ∧ u.fb = s.fb ∧
      (u.getV 15 = 1 ↔ ∃ row < n.toNat, ∃ col < 8, memorySpriteBit s row col = true ∧
        pixel s.fb ((s.getV x).toNat + col) ((s.getV y).toNat + row) = false)

/-- R227(a): after CLS a legal DRW finds no collision: the spec derives it from R220 and R224 (D5, D7). -/
def Obligations.DrawAfterClearFindsNoCollision : Prop :=
  ∀ (x y n : Nibble) (s t : State), exec .cls s = .next t → drawLegal x y n s →
    ∃ u, exec (.drw x y n) t = .next u ∧ u.getV 15 = 0 ∧ u.needsRepaint = true

/-! ### Timers and keypad -/

/-- R240 to R242: the timer instructions. -/
def Obligations.TimerInstructions : Prop :=
  ∀ (x : Nibble) (s : State),
    decode (packXKk 0xF x 0x07) = .ok (.ldVxDt x) ∧ decode (packXKk 0xF x 0x15) = .ok (.ldDtVx x) ∧
    decode (packXKk 0xF x 0x18) = .ok (.ldStVx x) ∧
    (∃ t, exec (.ldVxDt x) s = .next t ∧ RetiresWithV s t x s.dt) ∧
    exec (.ldDtVx x) s = .next { s with dt := s.getV x, pc := s.pc + 2, status := .retired } ∧
    exec (.ldStVx x) s = .next { s with st := s.getV x, pc := s.pc + 2, status := .retired }

/-- R243, R244, R246, R266: SKP and SKNP, for every sample of the keys; and their fault, the spec's decision D9. -/
def Obligations.KeySkips : Prop :=
  ∀ (x : Nibble) (s : State),
    decode (packXKk 0xE x 0x9E) = .ok (.skp x) ∧ decode (packXKk 0xE x 0xA1) = .ok (.sknp x) ∧
    ((s.getV x).toNat ≤ 15 →
      exec (.skp x) s = .next
        { s with pc := if s.ports.keys.getLsbD (s.getV x).toNat then s.pc + 4 else s.pc + 2, status := .retired } ∧
      exec (.sknp x) s = .next
        { s with pc := if s.ports.keys.getLsbD (s.getV x).toNat then s.pc + 2 else s.pc + 4, status := .retired }) ∧
    (15 < (s.getV x).toNat →
      exec (.skp x) s = .next
        (faultedState s .keyOutOfRange (packXKk 0xE x 0x9E) (BitVec.ofNat 16 (s.getV x).toNat)) ∧
      exec (.sknp x) s = .next
        (faultedState s .keyOutOfRange (packXKk 0xE x 0xA1) (BitVec.ofNat 16 (s.getV x).toNat)))

/-- R245: LD Vx, K, for every sample of `key_first`; that the wait is a step of its own is the spec's decision D10. -/
def Obligations.KeyWait : Prop :=
  ∀ (x : Nibble) (s : State),
    decode (packXKk 0xF x 0x0A) = .ok (.ldVxK x) ∧
    (s.ports.keyFirst = none → exec (.ldVxK x) s = .next { s with status := .waiting }) ∧
    (∀ k, s.ports.keyFirst = some k →
      ∃ t, exec (.ldVxK x) s = .next t ∧ RetiresWithV s t x (BitVec.ofNat 8 k.toNat))

/-- R247, R280: the key ports matter to SKP, SKNP and LD Vx, K only, the random port to RND only. That a step reads one
sample is the spec's decision D22; that the model carries it in its state is assumption log 2 and 3. -/
def Obligations.PortsMatterOnlyToTheirReaders : Prop :=
  ∀ (i : Instr) (s t : State) (p : Ports), exec i s = .next t →
    (readsKeys i = false → p.rnd = s.ports.rnd → exec i { s with ports := p } = .next { t with ports := p }) ∧
    (readsRandom i = false → p.keys = s.ports.keys → p.keyFirst = s.ports.keyFirst →
      exec i { s with ports := p } = .next { t with ports := p })

/-! ### The other operations -/

/-- R276, R277: `tick`; that a halted engine does not count is the spec's decision D16. -/
def Obligations.TickCountsDown : Prop :=
  ∀ s : State,
    (s.running = true → ∃ t, operate .tick s = .next t ∧ t = { s with dt := t.dt, st := t.st } ∧
      t.dt.toNat = s.dt.toNat - 1 ∧ t.st.toNat = s.st.toNat - 1) ∧
    (s.running = false → operate .tick s = .next s)

/-- R268, R282, and the action of R281 (the spec's decision D28): `quit` and `repaint_ack`. -/
def Obligations.QuitAndRepaintAck : Prop :=
  ∀ s : State,
    (s.running = true → operate .quit s = .next
      { s with
        running := false
        halt := { cause := .hostQuit, opcode := 0x0000, pc := s.pc, info := 0 } }) ∧
    (s.running = false → operate .quit s = .next s) ∧
    operate .repaintAck s = .next { s with needsRepaint := false }

/-- R77, R283: `load`, while it is permitted; and the model's refusals where it is not (assumption log 5). -/
def Obligations.LoadCopiesTheImage : Prop :=
  ∀ (image : List Byte) (s : State),
    (Memory.wf s.fontset s.mem → s.loadOpen = true → image.length ≤ 0xE00 →
      ∃ t, operate (.load image) s = .next t ∧ t = { s with mem := t.mem, loadOpen := false } ∧
        (∀ k < image.length, t.byteAt (0x200 + k) = image.getD k 0) ∧
        ∀ a, a < 0x200 ∨ 0x200 + image.length ≤ a → t.byteAt a = s.byteAt a) ∧
    (s.loadOpen = false → operate (.load image) s = .refused .loadClosed) ∧
    (s.loadOpen = true → 0xE00 < image.length → operate (.load image) s = .refused .imageTooLong)

/-- R300, R38: `initialize` from any state. `I`, `SP`, memory above the fontset, the screen, `needs_repaint` and the halt
record are the spec's decision D17. The 80 bytes from 0x000 on are the parameter `FONTSET`, whatever its value (R62). The
ports, which are the host's, keep their values (assumption log 2). -/
def Obligations.InitializeResetsTheBlock : Prop :=
  ∀ s : State, ∃ t, operate .reset s = .next t ∧
    (∀ r, t.getV r = 0x00) ∧ t.i = 0x0000 ∧ t.pc = 0x0200 ∧ t.sp = 0 ∧ (∀ k, t.getSlot k = 0x0000) ∧
    t.dt = 0x00 ∧ t.st = 0x00 ∧
    (∀ (a : Nat) (h : a < 80), t.byteAt a = s.fontset[a]) ∧
    (∀ a, 0x050 ≤ a → a ≤ 0xFFF → t.byteAt a = 0x00) ∧
    (∀ px < 64, ∀ py < 32, pixel t.fb px py = false) ∧
    t.needsRepaint = false ∧ t.running = true ∧
    t.halt = { cause := .none, opcode := 0, pc := 0, info := 0 } ∧ causeCode .none = 0 ∧
    t.ports = s.ports ∧ t.fontset = s.fontset

/-- R130: the host's cycle is `n` steps of the machine and then one tick, for every `STEPS_PER_CYCLE` = `n`. -/
def Obligations.CycleIsStepsThenTick : Prop :=
  ∀ (n : Nat) (s : State), ∃ u,
    Host.Core.run core n s = .next u ∧ runOperations (cycleOps n) s = .next (tick u)

/-! ### The parameter FONTSET -/

/-- R8, R62: `FONTSET` is a parameter: no operation and no host action changes it (that the model carries it in its state
is assumption log 18). -/
def Obligations.FontsetIsAParameter : Prop :=
  ∀ (ops : List Operation) (s t : State), runOperations ops s = .next t → t.fontset = s.fontset

/-- R62: no rule but the reset value of memory depends on the values of `FONTSET`. A step from a state with another
fontset whose memory reads the same does the same, and the memories read the same after it. -/
def Obligations.FontsetMattersOnlyThroughMemory : Prop :=
  ∀ (s t : State) (f : Fontset) (m : List Host.Cell),
    Memory.wf s.fontset s.mem → Memory.wf f m → (∀ a, Memory.read f m a = s.byteAt a) → step s = .next t →
    ∃ m', step { s with fontset := f, mem := m } = .next { t with fontset := f, mem := m' } ∧
      Memory.wf t.fontset t.mem ∧ Memory.wf f m' ∧ ∀ a, Memory.read f m' a = t.byteAt a

/-! ### Invariants -/

/-- The state after `initialize` meets the invariant, whatever the parameter `FONTSET`: R26, R28, R35, R38, and the ports as
assumption log 2 samples them. -/
def Obligations.ResetMeetsTheInvariant : Prop := (∀ f : Fontset, Inv (State.resetWith f)) ∧ Inv State.reset

/-- Every step keeps the invariant: memory in canonical form inside 0x000..0xFFF, `PC` at most 0x10FE (R26), slots at
most 0xFFE and slot 0 zero (R28), the halt record in agreement with `running` (R35), the key ports consistent
(R279, D11; assumption log 2). -/
def Obligations.StepKeepsTheInvariant : Prop :=
  ∀ s t : State, Inv s → step s = .next t → Inv t

/-- Every sequence of operations and host actions, in every interleaving, keeps the invariant. -/
def Obligations.EveryRunKeepsTheInvariant : Prop :=
  ∀ (ops : List Operation) (s t : State), Inv s → runOperations ops s = .next t → Inv t

/-- The host drives the input ports (R279, R280, R287): any byte, any key levels, and for `key_first` any pressed key, none
exactly when no key is down. Port values that break this duty are refused: U13, D11; the model's choice, assumption
log 2. -/
def Obligations.DrivenPortsKeepTheHostsDuty : Prop :=
  ∀ (p : Ports) (s : State),
    ((p.keyFirst = none ∧ (∀ k : Nibble, p.keys.getLsbD k.toNat = false)) ∨
        (∃ k : Nibble, p.keyFirst = some k ∧ p.keys.getLsbD k.toNat = true) →
      operate (.drivePorts p) s = .next { s with ports := p }) ∧
    (p.keyFirst = none → (∃ k : Nibble, p.keys.getLsbD k.toNat = true) →
      operate (.drivePorts p) s = .refused .inconsistentKeys) ∧
    (∀ k : Nibble, p.keyFirst = some k → p.keys.getLsbD k.toNat = false →
      operate (.drivePorts p) s = .refused .inconsistentKeys)

/-- R39, R273: a halted machine is final (D16). Whatever operations and host actions follow, other than `initialize`, every
element of the block but `needs_repaint` keeps its value. -/
def Obligations.HaltedStateIsFinal : Prop :=
  ∀ (ops : List Operation) (s t : State), s.running = false → s.loadOpen = false → .reset ∉ ops →
    runOperations ops s = .next t →
    t = { s with
      needsRepaint := t.needsRepaint, status := t.status, ports := t.ports, sample := t.sample }
end

