-- ==== Sys2Proof/Laws/Decode.lean ====
section
/-! SUPPORT. The fields of a packed word, and a word packed from its fields (R91, R92). -/

namespace Sys2Proof

/-- Bit by bit, format NNN (R92). -/
theorem getLsbD_packNnn (c : Nibble) (nnn : Addr12) (k : Nat) :
    (packNnn c nnn).getLsbD k = if k < 12 then nnn.getLsbD k else c.getLsbD (k - 12) :=
  BitVec.getLsbD_append (x := c) (y := nnn)

/-- Bit by bit, formats XKK and X (R92). -/
theorem getLsbD_packXKk (c x : Nibble) (kk : Byte) (k : Nat) :
    (packXKk c x kk).getLsbD k =
      if k < 8 then kk.getLsbD k else if k - 8 < 4 then x.getLsbD (k - 8) else c.getLsbD (k - 8 - 4) := by
  rw [← BitVec.getLsbD_append (x := c) (y := x)]
  exact BitVec.getLsbD_append (x := c ++ x) (y := kk)

/-- Bit by bit, formats XY and XYN (R92). -/
theorem getLsbD_packXYN (c x y n : Nibble) (k : Nat) :
    (packXYN c x y n).getLsbD k =
      if k < 4 then n.getLsbD k else if k - 4 < 4 then y.getLsbD (k - 4)
      else if k - 4 - 4 < 4 then x.getLsbD (k - 4 - 4) else c.getLsbD (k - 4 - 4 - 4) := by
  rw [← BitVec.getLsbD_append (x := c) (y := x), ← BitVec.getLsbD_append (x := c ++ x) (y := y)]
  exact BitVec.getLsbD_append (x := c ++ x ++ y) (y := n)

@[simp] theorem fieldClass_packNnn (c : Nibble) (nnn : Addr12) : fieldClass (packNnn c nnn) = c := by
  apply BitVec.eq_of_getLsbD_eq
  intro k hk
  rw [fieldClass, BitVec.getLsbD_extractLsb', decide_eq_true hk, Bool.true_and, getLsbD_packNnn]
  repeat' split
  all_goals first | omega | (congr 1; omega)

@[simp] theorem fieldNnn_packNnn (c : Nibble) (nnn : Addr12) : fieldNnn (packNnn c nnn) = nnn := by
  apply BitVec.eq_of_getLsbD_eq
  intro k hk
  rw [fieldNnn, BitVec.getLsbD_extractLsb', decide_eq_true hk, Bool.true_and, getLsbD_packNnn]
  repeat' split
  all_goals first | omega | (congr 1; omega)

@[simp] theorem fieldClass_packXKk (c x : Nibble) (kk : Byte) : fieldClass (packXKk c x kk) = c := by
  apply BitVec.eq_of_getLsbD_eq
  intro k hk
  rw [fieldClass, BitVec.getLsbD_extractLsb', decide_eq_true hk, Bool.true_and, getLsbD_packXKk]
  repeat' split
  all_goals first | omega | (congr 1; omega)

@[simp] theorem fieldX_packXKk (c x : Nibble) (kk : Byte) : fieldX (packXKk c x kk) = x := by
  apply BitVec.eq_of_getLsbD_eq
  intro k hk
  rw [fieldX, BitVec.getLsbD_extractLsb', decide_eq_true hk, Bool.true_and, getLsbD_packXKk]
  repeat' split
  all_goals first | omega | (congr 1; omega)

@[simp] theorem fieldKk_packXKk (c x : Nibble) (kk : Byte) : fieldKk (packXKk c x kk) = kk := by
  apply BitVec.eq_of_getLsbD_eq
  intro k hk
  rw [fieldKk, BitVec.getLsbD_extractLsb', decide_eq_true hk, Bool.true_and, getLsbD_packXKk]
  repeat' split
  all_goals first | omega | (congr 1; omega)

@[simp] theorem fieldClass_packXYN (c x y n : Nibble) : fieldClass (packXYN c x y n) = c := by
  apply BitVec.eq_of_getLsbD_eq
  intro k hk
  rw [fieldClass, BitVec.getLsbD_extractLsb', decide_eq_true hk, Bool.true_and, getLsbD_packXYN]
  repeat' split
  all_goals first | omega | (congr 1; omega)

@[simp] theorem fieldX_packXYN (c x y n : Nibble) : fieldX (packXYN c x y n) = x := by
  apply BitVec.eq_of_getLsbD_eq
  intro k hk
  rw [fieldX, BitVec.getLsbD_extractLsb', decide_eq_true hk, Bool.true_and, getLsbD_packXYN]
  repeat' split
  all_goals first | omega | (congr 1; omega)

@[simp] theorem fieldY_packXYN (c x y n : Nibble) : fieldY (packXYN c x y n) = y := by
  apply BitVec.eq_of_getLsbD_eq
  intro k hk
  rw [fieldY, BitVec.getLsbD_extractLsb', decide_eq_true hk, Bool.true_and, getLsbD_packXYN]
  repeat' split
  all_goals first | omega | (congr 1; omega)

@[simp] theorem fieldN_packXYN (c x y n : Nibble) : fieldN (packXYN c x y n) = n := by
  apply BitVec.eq_of_getLsbD_eq
  intro k hk
  rw [fieldN, BitVec.getLsbD_extractLsb', decide_eq_true hk, Bool.true_and, getLsbD_packXYN]
  repeat' split
  all_goals first | omega | (congr 1; omega)

/-- A word is its class and its `nnn`. -/
theorem packNnn_fields (w : Word) : packNnn (fieldClass w) (fieldNnn w) = w := by
  apply BitVec.eq_of_getLsbD_eq
  intro k hk
  simp only [getLsbD_packNnn, fieldClass, fieldNnn, BitVec.getLsbD_extractLsb']
  repeat' split
  all_goals rw [decide_eq_true (by omega), Bool.true_and]; congr 1; omega

/-- A word is its class, `x` and `kk`. -/
theorem packXKk_fields (w : Word) : packXKk (fieldClass w) (fieldX w) (fieldKk w) = w := by
  apply BitVec.eq_of_getLsbD_eq
  intro k hk
  simp only [getLsbD_packXKk, fieldClass, fieldX, fieldKk, BitVec.getLsbD_extractLsb']
  repeat' split
  all_goals rw [decide_eq_true (by omega), Bool.true_and]; congr 1; omega

/-- A word is its four nibbles. -/
theorem packXYN_fields (w : Word) : packXYN (fieldClass w) (fieldX w) (fieldY w) (fieldN w) = w := by
  apply BitVec.eq_of_getLsbD_eq
  intro k hk
  simp only [getLsbD_packXYN, fieldClass, fieldX, fieldY, fieldN, BitVec.getLsbD_extractLsb']
  repeat' split
  all_goals rw [decide_eq_true (by omega), Bool.true_and]; congr 1; omega

/-- The bytes of a word, back together (R64). -/
@[simp] theorem highByte_append_lowByte (w : Word) : highByte w ++ lowByte w = w := by
  apply BitVec.eq_of_getLsbD_eq
  intro k hk
  rw [show (highByte w ++ lowByte w).getLsbD k = _ from BitVec.getLsbD_append]
  simp only [highByte, lowByte, BitVec.getLsbD_extractLsb']
  split
  · rw [decide_eq_true (by omega), Bool.true_and, Nat.zero_add]
  · rw [decide_eq_true (by omega), Bool.true_and]
    congr 1
    omega

/-- Masking a word field by field, format NNN. -/
theorem packNnn_and (c d : Nibble) (a b : Addr12) :
    packNnn c a &&& packNnn d b = packNnn (c &&& d) (a &&& b) := by
  apply BitVec.eq_of_getLsbD_eq
  intro k _
  simp only [BitVec.getLsbD_and, getLsbD_packNnn]
  repeat' split
  all_goals rfl

/-- Masking a word field by field, formats XKK and X. -/
theorem packXKk_and (c d x y : Nibble) (a b : Byte) :
    packXKk c x a &&& packXKk d y b = packXKk (c &&& d) (x &&& y) (a &&& b) := by
  apply BitVec.eq_of_getLsbD_eq
  intro k _
  simp only [BitVec.getLsbD_and, getLsbD_packXKk]
  repeat' split
  all_goals rfl

/-- Masking a word field by field, formats XY and XYN. -/
theorem packXYN_and (c d x x' y y' n n' : Nibble) :
    packXYN c x y n &&& packXYN d x' y' n' = packXYN (c &&& d) (x &&& x') (y &&& y') (n &&& n') := by
  apply BitVec.eq_of_getLsbD_eq
  intro k _
  simp only [BitVec.getLsbD_and, getLsbD_packXYN]
  repeat' split
  all_goals rfl

end Sys2Proof
end

