-- ==== Sys2Proof/Laws/Display.lean ====
section
/-! SUPPORT. The screen pixel by pixel (R221, R222). -/

namespace Sys2Proof.Machine

/-- A screen is its pixels. -/
theorem fb_ext {f g : Vector (BitVec 64) 32} (h : ∀ x < 64, ∀ y < 32, pixel f x y = pixel g x y) : f = g := by
  apply Vector.ext
  intro y hy
  apply BitVec.eq_of_getLsbD_eq
  intro x hx
  simpa [pixel, hy] using h x hx y hy

/-- The blank screen has no pixel lit. -/
@[simp] theorem pixel_blankScreen (x y : Nat) : pixel blankScreen x y = false := by
  unfold pixel blankScreen
  split
  · rename_i row h
    obtain ⟨-, rfl⟩ := Vector.getElem?_eq_some_iff.1 h
    simp
  · rfl

/-- Column by column, a sprite row: bit `7 - col` of its byte (R222). -/
theorem getLsbD_spriteMask (b : Byte) (vx x : Nat) :
    (spriteMask b vx).getLsbD x = (decide (x < 64) && decide (vx ≤ x) && decide (x < vx + 8) && b.getLsbD (7 - (x - vx))) := by
  unfold spriteMask
  rw [BitVec.getLsbD_shiftLeft, BitVec.getLsbD_setWidth, BitVec.getLsbD_reverse, BitVec.getMsbD]
  by_cases h2 : vx ≤ x
  · by_cases h1 : x < 64
    · have h4 : x - vx < 8 ↔ x < vx + 8 := by omega
      have h5 : x - vx < 64 := by omega
      have h6 : ¬ x < vx := by omega
      simp [h1, h2, h4, h5, h6]
    · simp [h1]
  · have h6 : x < vx := by omega
    simp [h2, h6]

/-- The draw unit pixel by pixel. -/
theorem pixel_xorDraw (fb : Vector (BitVec 64) 32) (rows : List Byte) (vx vy x y : Nat) (hx : x < 64) (hy : y < 32) :
    pixel (xorDraw fb rows vx vy) x y =
      (pixel fb x y ^^
        (decide (vx ≤ x) && decide (x < vx + 8) && decide (vy ≤ y) && spriteBit rows (y - vy) (x - vx))) := by
  have row : ∀ g : Vector (BitVec 64) 32, pixel g x y = g[y].getLsbD x := fun g => by simp [pixel, hy]
  rw [row, row, xorDraw, Vector.getElem_mapIdx]
  by_cases h : vy ≤ y
  · simp only [h, if_true, BitVec.getLsbD_xor, getLsbD_spriteMask, hx, decide_true, Bool.true_and, Bool.and_true,
      spriteBit]
  · simp [h]

/-- The collision detector, place by place (R224). -/
theorem collides_iff (fb : Vector (BitVec 64) 32) (rows : List Byte) (vx vy : Nat) :
    collides fb rows vx vy = true ↔
      ∃ row < rows.length, ∃ col < 8, spriteBit rows row col = true ∧ pixel fb (vx + col) (vy + row) = true := by
  simp [collides, List.any_eq_true]

end Sys2Proof.Machine
end

