-- ==== Sys2Proof/Laws/State.lean ====
section
/-! SUPPORT. One lemma per field per update of the state, so that no proof unfolds a record update. -/

namespace Sys2Proof.Machine

variable (s : State)


@[simp] theorem setV_v (x : Nibble) (b : Byte) : (s.setV x b).v = s.v.set x.toNat b x.isLt := rfl
@[simp] theorem setV_i (x : Nibble) (b : Byte) : (s.setV x b).i = s.i := rfl
@[simp] theorem setV_pc (x : Nibble) (b : Byte) : (s.setV x b).pc = s.pc := rfl
@[simp] theorem setV_sp (x : Nibble) (b : Byte) : (s.setV x b).sp = s.sp := rfl
@[simp] theorem setV_stack (x : Nibble) (b : Byte) : (s.setV x b).stack = s.stack := rfl
@[simp] theorem setV_dt (x : Nibble) (b : Byte) : (s.setV x b).dt = s.dt := rfl
@[simp] theorem setV_st (x : Nibble) (b : Byte) : (s.setV x b).st = s.st := rfl
@[simp] theorem setV_mem (x : Nibble) (b : Byte) : (s.setV x b).mem = s.mem := rfl
@[simp] theorem setV_fb (x : Nibble) (b : Byte) : (s.setV x b).fb = s.fb := rfl
@[simp] theorem setV_running (x : Nibble) (b : Byte) : (s.setV x b).running = s.running := rfl
@[simp] theorem setV_needsRepaint (x : Nibble) (b : Byte) : (s.setV x b).needsRepaint = s.needsRepaint := rfl
@[simp] theorem setV_halt (x : Nibble) (b : Byte) : (s.setV x b).halt = s.halt := rfl
@[simp] theorem setV_status (x : Nibble) (b : Byte) : (s.setV x b).status = s.status := rfl
@[simp] theorem setV_ports (x : Nibble) (b : Byte) : (s.setV x b).ports = s.ports := rfl
@[simp] theorem setV_sample (x : Nibble) (b : Byte) : (s.setV x b).sample = s.sample := rfl
@[simp] theorem setV_loadOpen (x : Nibble) (b : Byte) : (s.setV x b).loadOpen = s.loadOpen := rfl
@[simp] theorem setV_fontset (x : Nibble) (b : Byte) : (s.setV x b).fontset = s.fontset := rfl

@[simp] theorem setFlagThenV_i (f : Byte) (x : Nibble) (b : Byte) : (s.setFlagThenV f x b).i = s.i := rfl
@[simp] theorem setFlagThenV_pc (f : Byte) (x : Nibble) (b : Byte) : (s.setFlagThenV f x b).pc = s.pc := rfl
@[simp] theorem setFlagThenV_sp (f : Byte) (x : Nibble) (b : Byte) : (s.setFlagThenV f x b).sp = s.sp := rfl
@[simp] theorem setFlagThenV_stack (f : Byte) (x : Nibble) (b : Byte) : (s.setFlagThenV f x b).stack = s.stack := rfl
@[simp] theorem setFlagThenV_dt (f : Byte) (x : Nibble) (b : Byte) : (s.setFlagThenV f x b).dt = s.dt := rfl
@[simp] theorem setFlagThenV_st (f : Byte) (x : Nibble) (b : Byte) : (s.setFlagThenV f x b).st = s.st := rfl
@[simp] theorem setFlagThenV_mem (f : Byte) (x : Nibble) (b : Byte) : (s.setFlagThenV f x b).mem = s.mem := rfl
@[simp] theorem setFlagThenV_fb (f : Byte) (x : Nibble) (b : Byte) : (s.setFlagThenV f x b).fb = s.fb := rfl
@[simp] theorem setFlagThenV_running (f : Byte) (x : Nibble) (b : Byte) : (s.setFlagThenV f x b).running = s.running := rfl
@[simp] theorem setFlagThenV_needsRepaint (f : Byte) (x : Nibble) (b : Byte) : (s.setFlagThenV f x b).needsRepaint = s.needsRepaint := rfl
@[simp] theorem setFlagThenV_halt (f : Byte) (x : Nibble) (b : Byte) : (s.setFlagThenV f x b).halt = s.halt := rfl
@[simp] theorem setFlagThenV_status (f : Byte) (x : Nibble) (b : Byte) : (s.setFlagThenV f x b).status = s.status := rfl
@[simp] theorem setFlagThenV_ports (f : Byte) (x : Nibble) (b : Byte) : (s.setFlagThenV f x b).ports = s.ports := rfl
@[simp] theorem setFlagThenV_sample (f : Byte) (x : Nibble) (b : Byte) : (s.setFlagThenV f x b).sample = s.sample := rfl
@[simp] theorem setFlagThenV_loadOpen (f : Byte) (x : Nibble) (b : Byte) : (s.setFlagThenV f x b).loadOpen = s.loadOpen := rfl
@[simp] theorem setFlagThenV_fontset (f : Byte) (x : Nibble) (b : Byte) : (s.setFlagThenV f x b).fontset = s.fontset := rfl

@[simp] theorem setSlot_v (k : Nibble) (w : Word) : (s.setSlot k w).v = s.v := rfl
@[simp] theorem setSlot_i (k : Nibble) (w : Word) : (s.setSlot k w).i = s.i := rfl
@[simp] theorem setSlot_pc (k : Nibble) (w : Word) : (s.setSlot k w).pc = s.pc := rfl
@[simp] theorem setSlot_sp (k : Nibble) (w : Word) : (s.setSlot k w).sp = s.sp := rfl
@[simp] theorem setSlot_stack (k : Nibble) (w : Word) : (s.setSlot k w).stack = s.stack.set k.toNat w k.isLt := rfl
@[simp] theorem setSlot_dt (k : Nibble) (w : Word) : (s.setSlot k w).dt = s.dt := rfl
@[simp] theorem setSlot_st (k : Nibble) (w : Word) : (s.setSlot k w).st = s.st := rfl
@[simp] theorem setSlot_mem (k : Nibble) (w : Word) : (s.setSlot k w).mem = s.mem := rfl
@[simp] theorem setSlot_fb (k : Nibble) (w : Word) : (s.setSlot k w).fb = s.fb := rfl
@[simp] theorem setSlot_running (k : Nibble) (w : Word) : (s.setSlot k w).running = s.running := rfl
@[simp] theorem setSlot_needsRepaint (k : Nibble) (w : Word) : (s.setSlot k w).needsRepaint = s.needsRepaint := rfl
@[simp] theorem setSlot_halt (k : Nibble) (w : Word) : (s.setSlot k w).halt = s.halt := rfl
@[simp] theorem setSlot_status (k : Nibble) (w : Word) : (s.setSlot k w).status = s.status := rfl
@[simp] theorem setSlot_ports (k : Nibble) (w : Word) : (s.setSlot k w).ports = s.ports := rfl
@[simp] theorem setSlot_sample (k : Nibble) (w : Word) : (s.setSlot k w).sample = s.sample := rfl
@[simp] theorem setSlot_loadOpen (k : Nibble) (w : Word) : (s.setSlot k w).loadOpen = s.loadOpen := rfl
@[simp] theorem setSlot_fontset (k : Nibble) (w : Word) : (s.setSlot k w).fontset = s.fontset := rfl

@[simp] theorem retireAt_v (w : Word) : (s.retireAt w).v = s.v := rfl
@[simp] theorem retireAt_i (w : Word) : (s.retireAt w).i = s.i := rfl
@[simp] theorem retireAt_pc (w : Word) : (s.retireAt w).pc = w := rfl
@[simp] theorem retireAt_sp (w : Word) : (s.retireAt w).sp = s.sp := rfl
@[simp] theorem retireAt_stack (w : Word) : (s.retireAt w).stack = s.stack := rfl
@[simp] theorem retireAt_dt (w : Word) : (s.retireAt w).dt = s.dt := rfl
@[simp] theorem retireAt_st (w : Word) : (s.retireAt w).st = s.st := rfl
@[simp] theorem retireAt_mem (w : Word) : (s.retireAt w).mem = s.mem := rfl
@[simp] theorem retireAt_fb (w : Word) : (s.retireAt w).fb = s.fb := rfl
@[simp] theorem retireAt_running (w : Word) : (s.retireAt w).running = s.running := rfl
@[simp] theorem retireAt_needsRepaint (w : Word) : (s.retireAt w).needsRepaint = s.needsRepaint := rfl
@[simp] theorem retireAt_halt (w : Word) : (s.retireAt w).halt = s.halt := rfl
@[simp] theorem retireAt_status (w : Word) : (s.retireAt w).status = .retired := rfl
@[simp] theorem retireAt_ports (w : Word) : (s.retireAt w).ports = s.ports := rfl
@[simp] theorem retireAt_sample (w : Word) : (s.retireAt w).sample = s.sample := rfl
@[simp] theorem retireAt_loadOpen (w : Word) : (s.retireAt w).loadOpen = s.loadOpen := rfl
@[simp] theorem retireAt_fontset (w : Word) : (s.retireAt w).fontset = s.fontset := rfl

@[simp] theorem nextPC_v : (s.nextPC).v = s.v := rfl
@[simp] theorem nextPC_i : (s.nextPC).i = s.i := rfl
@[simp] theorem nextPC_pc : (s.nextPC).pc = s.pc + 2 := rfl
@[simp] theorem nextPC_sp : (s.nextPC).sp = s.sp := rfl
@[simp] theorem nextPC_stack : (s.nextPC).stack = s.stack := rfl
@[simp] theorem nextPC_dt : (s.nextPC).dt = s.dt := rfl
@[simp] theorem nextPC_st : (s.nextPC).st = s.st := rfl
@[simp] theorem nextPC_mem : (s.nextPC).mem = s.mem := rfl
@[simp] theorem nextPC_fb : (s.nextPC).fb = s.fb := rfl
@[simp] theorem nextPC_running : (s.nextPC).running = s.running := rfl
@[simp] theorem nextPC_needsRepaint : (s.nextPC).needsRepaint = s.needsRepaint := rfl
@[simp] theorem nextPC_halt : (s.nextPC).halt = s.halt := rfl
@[simp] theorem nextPC_status : (s.nextPC).status = .retired := rfl
@[simp] theorem nextPC_ports : (s.nextPC).ports = s.ports := rfl
@[simp] theorem nextPC_sample : (s.nextPC).sample = s.sample := rfl
@[simp] theorem nextPC_loadOpen : (s.nextPC).loadOpen = s.loadOpen := rfl
@[simp] theorem nextPC_fontset : (s.nextPC).fontset = s.fontset := rfl

@[simp] theorem skipPC_v : (s.skipPC).v = s.v := rfl
@[simp] theorem skipPC_i : (s.skipPC).i = s.i := rfl
@[simp] theorem skipPC_pc : (s.skipPC).pc = s.pc + 4 := rfl
@[simp] theorem skipPC_sp : (s.skipPC).sp = s.sp := rfl
@[simp] theorem skipPC_stack : (s.skipPC).stack = s.stack := rfl
@[simp] theorem skipPC_dt : (s.skipPC).dt = s.dt := rfl
@[simp] theorem skipPC_st : (s.skipPC).st = s.st := rfl
@[simp] theorem skipPC_mem : (s.skipPC).mem = s.mem := rfl
@[simp] theorem skipPC_fb : (s.skipPC).fb = s.fb := rfl
@[simp] theorem skipPC_running : (s.skipPC).running = s.running := rfl
@[simp] theorem skipPC_needsRepaint : (s.skipPC).needsRepaint = s.needsRepaint := rfl
@[simp] theorem skipPC_halt : (s.skipPC).halt = s.halt := rfl
@[simp] theorem skipPC_status : (s.skipPC).status = .retired := rfl
@[simp] theorem skipPC_ports : (s.skipPC).ports = s.ports := rfl
@[simp] theorem skipPC_sample : (s.skipPC).sample = s.sample := rfl
@[simp] theorem skipPC_loadOpen : (s.skipPC).loadOpen = s.loadOpen := rfl
@[simp] theorem skipPC_fontset : (s.skipPC).fontset = s.fontset := rfl

@[simp] theorem skipWhen_v (c : Bool) : (s.skipWhen c).v = s.v := by cases c <;> rfl
@[simp] theorem skipWhen_i (c : Bool) : (s.skipWhen c).i = s.i := by cases c <;> rfl
@[simp] theorem skipWhen_pc (c : Bool) : (s.skipWhen c).pc = if c then s.pc + 4 else s.pc + 2 := by cases c <;> rfl
@[simp] theorem skipWhen_sp (c : Bool) : (s.skipWhen c).sp = s.sp := by cases c <;> rfl
@[simp] theorem skipWhen_stack (c : Bool) : (s.skipWhen c).stack = s.stack := by cases c <;> rfl
@[simp] theorem skipWhen_dt (c : Bool) : (s.skipWhen c).dt = s.dt := by cases c <;> rfl
@[simp] theorem skipWhen_st (c : Bool) : (s.skipWhen c).st = s.st := by cases c <;> rfl
@[simp] theorem skipWhen_mem (c : Bool) : (s.skipWhen c).mem = s.mem := by cases c <;> rfl
@[simp] theorem skipWhen_fb (c : Bool) : (s.skipWhen c).fb = s.fb := by cases c <;> rfl
@[simp] theorem skipWhen_running (c : Bool) : (s.skipWhen c).running = s.running := by cases c <;> rfl
@[simp] theorem skipWhen_needsRepaint (c : Bool) : (s.skipWhen c).needsRepaint = s.needsRepaint := by cases c <;> rfl
@[simp] theorem skipWhen_halt (c : Bool) : (s.skipWhen c).halt = s.halt := by cases c <;> rfl
@[simp] theorem skipWhen_status (c : Bool) : (s.skipWhen c).status = .retired := by cases c <;> rfl
@[simp] theorem skipWhen_ports (c : Bool) : (s.skipWhen c).ports = s.ports := by cases c <;> rfl
@[simp] theorem skipWhen_sample (c : Bool) : (s.skipWhen c).sample = s.sample := by cases c <;> rfl
@[simp] theorem skipWhen_loadOpen (c : Bool) : (s.skipWhen c).loadOpen = s.loadOpen := by cases c <;> rfl
@[simp] theorem skipWhen_fontset (c : Bool) : (s.skipWhen c).fontset = s.fontset := by cases c <;> rfl

@[simp] theorem endWith_v (q : Status) : (s.endWith q).v = s.v := rfl
@[simp] theorem endWith_i (q : Status) : (s.endWith q).i = s.i := rfl
@[simp] theorem endWith_pc (q : Status) : (s.endWith q).pc = s.pc := rfl
@[simp] theorem endWith_sp (q : Status) : (s.endWith q).sp = s.sp := rfl
@[simp] theorem endWith_stack (q : Status) : (s.endWith q).stack = s.stack := rfl
@[simp] theorem endWith_dt (q : Status) : (s.endWith q).dt = s.dt := rfl
@[simp] theorem endWith_st (q : Status) : (s.endWith q).st = s.st := rfl
@[simp] theorem endWith_mem (q : Status) : (s.endWith q).mem = s.mem := rfl
@[simp] theorem endWith_fb (q : Status) : (s.endWith q).fb = s.fb := rfl
@[simp] theorem endWith_running (q : Status) : (s.endWith q).running = s.running := rfl
@[simp] theorem endWith_needsRepaint (q : Status) : (s.endWith q).needsRepaint = s.needsRepaint := rfl
@[simp] theorem endWith_halt (q : Status) : (s.endWith q).halt = s.halt := rfl
@[simp] theorem endWith_status (q : Status) : (s.endWith q).status = q := rfl
@[simp] theorem endWith_ports (q : Status) : (s.endWith q).ports = s.ports := rfl
@[simp] theorem endWith_sample (q : Status) : (s.endWith q).sample = s.sample := rfl
@[simp] theorem endWith_loadOpen (q : Status) : (s.endWith q).loadOpen = s.loadOpen := rfl
@[simp] theorem endWith_fontset (q : Status) : (s.endWith q).fontset = s.fontset := rfl

@[simp] theorem haltWith_v (c : HaltCause) (w a : Word) : (s.haltWith c w a).v = s.v := rfl
@[simp] theorem haltWith_i (c : HaltCause) (w a : Word) : (s.haltWith c w a).i = s.i := rfl
@[simp] theorem haltWith_pc (c : HaltCause) (w a : Word) : (s.haltWith c w a).pc = s.pc := rfl
@[simp] theorem haltWith_sp (c : HaltCause) (w a : Word) : (s.haltWith c w a).sp = s.sp := rfl
@[simp] theorem haltWith_stack (c : HaltCause) (w a : Word) : (s.haltWith c w a).stack = s.stack := rfl
@[simp] theorem haltWith_dt (c : HaltCause) (w a : Word) : (s.haltWith c w a).dt = s.dt := rfl
@[simp] theorem haltWith_st (c : HaltCause) (w a : Word) : (s.haltWith c w a).st = s.st := rfl
@[simp] theorem haltWith_mem (c : HaltCause) (w a : Word) : (s.haltWith c w a).mem = s.mem := rfl
@[simp] theorem haltWith_fb (c : HaltCause) (w a : Word) : (s.haltWith c w a).fb = s.fb := rfl
@[simp] theorem haltWith_running (c : HaltCause) (w a : Word) : (s.haltWith c w a).running = false := rfl
@[simp] theorem haltWith_needsRepaint (c : HaltCause) (w a : Word) : (s.haltWith c w a).needsRepaint = s.needsRepaint := rfl
@[simp] theorem haltWith_halt (c : HaltCause) (w a : Word) : (s.haltWith c w a).halt = { cause := c, opcode := w, pc := s.pc, info := a } := rfl
@[simp] theorem haltWith_status (c : HaltCause) (w a : Word) : (s.haltWith c w a).status = s.status := rfl
@[simp] theorem haltWith_ports (c : HaltCause) (w a : Word) : (s.haltWith c w a).ports = s.ports := rfl
@[simp] theorem haltWith_sample (c : HaltCause) (w a : Word) : (s.haltWith c w a).sample = s.sample := rfl
@[simp] theorem haltWith_loadOpen (c : HaltCause) (w a : Word) : (s.haltWith c w a).loadOpen = s.loadOpen := rfl
@[simp] theorem haltWith_fontset (c : HaltCause) (w a : Word) : (s.haltWith c w a).fontset = s.fontset := rfl

@[simp] theorem raise_v (c : HaltCause) (w a : Word) : (s.raise c w a).v = s.v := rfl
@[simp] theorem raise_i (c : HaltCause) (w a : Word) : (s.raise c w a).i = s.i := rfl
@[simp] theorem raise_pc (c : HaltCause) (w a : Word) : (s.raise c w a).pc = s.pc := rfl
@[simp] theorem raise_sp (c : HaltCause) (w a : Word) : (s.raise c w a).sp = s.sp := rfl
@[simp] theorem raise_stack (c : HaltCause) (w a : Word) : (s.raise c w a).stack = s.stack := rfl
@[simp] theorem raise_dt (c : HaltCause) (w a : Word) : (s.raise c w a).dt = s.dt := rfl
@[simp] theorem raise_st (c : HaltCause) (w a : Word) : (s.raise c w a).st = s.st := rfl
@[simp] theorem raise_mem (c : HaltCause) (w a : Word) : (s.raise c w a).mem = s.mem := rfl
@[simp] theorem raise_fb (c : HaltCause) (w a : Word) : (s.raise c w a).fb = s.fb := rfl
@[simp] theorem raise_running (c : HaltCause) (w a : Word) : (s.raise c w a).running = false := rfl
@[simp] theorem raise_needsRepaint (c : HaltCause) (w a : Word) : (s.raise c w a).needsRepaint = s.needsRepaint := rfl
@[simp] theorem raise_halt (c : HaltCause) (w a : Word) : (s.raise c w a).halt = { cause := c, opcode := w, pc := s.pc, info := a } := rfl
@[simp] theorem raise_status (c : HaltCause) (w a : Word) : (s.raise c w a).status = .faulted := rfl
@[simp] theorem raise_ports (c : HaltCause) (w a : Word) : (s.raise c w a).ports = s.ports := rfl
@[simp] theorem raise_sample (c : HaltCause) (w a : Word) : (s.raise c w a).sample = s.sample := rfl
@[simp] theorem raise_loadOpen (c : HaltCause) (w a : Word) : (s.raise c w a).loadOpen = s.loadOpen := rfl
@[simp] theorem raise_fontset (c : HaltCause) (w a : Word) : (s.raise c w a).fontset = s.fontset := rfl

@[simp] theorem afterStep_v : (s.afterStep).v = s.v := rfl
@[simp] theorem afterStep_i : (s.afterStep).i = s.i := rfl
@[simp] theorem afterStep_pc : (s.afterStep).pc = s.pc := rfl
@[simp] theorem afterStep_sp : (s.afterStep).sp = s.sp := rfl
@[simp] theorem afterStep_stack : (s.afterStep).stack = s.stack := rfl
@[simp] theorem afterStep_dt : (s.afterStep).dt = s.dt := rfl
@[simp] theorem afterStep_st : (s.afterStep).st = s.st := rfl
@[simp] theorem afterStep_mem : (s.afterStep).mem = s.mem := rfl
@[simp] theorem afterStep_fb : (s.afterStep).fb = s.fb := rfl
@[simp] theorem afterStep_running : (s.afterStep).running = s.running := rfl
@[simp] theorem afterStep_needsRepaint : (s.afterStep).needsRepaint = s.needsRepaint := rfl
@[simp] theorem afterStep_halt : (s.afterStep).halt = s.halt := rfl
@[simp] theorem afterStep_status : (s.afterStep).status = s.status := rfl
@[simp] theorem afterStep_ports : (s.afterStep).ports = sampledPorts s.sample := rfl
@[simp] theorem afterStep_sample : (s.afterStep).sample = s.sample + 1 := rfl
@[simp] theorem afterStep_loadOpen : (s.afterStep).loadOpen = false := rfl
@[simp] theorem afterStep_fontset : (s.afterStep).fontset = s.fontset := rfl

@[simp] theorem setSP_v (k : Nibble) : (s.setSP k).v = s.v := rfl
@[simp] theorem setSP_i (k : Nibble) : (s.setSP k).i = s.i := rfl
@[simp] theorem setSP_pc (k : Nibble) : (s.setSP k).pc = s.pc := rfl
@[simp] theorem setSP_sp (k : Nibble) : (s.setSP k).sp = k := rfl
@[simp] theorem setSP_stack (k : Nibble) : (s.setSP k).stack = s.stack := rfl
@[simp] theorem setSP_dt (k : Nibble) : (s.setSP k).dt = s.dt := rfl
@[simp] theorem setSP_st (k : Nibble) : (s.setSP k).st = s.st := rfl
@[simp] theorem setSP_mem (k : Nibble) : (s.setSP k).mem = s.mem := rfl
@[simp] theorem setSP_fb (k : Nibble) : (s.setSP k).fb = s.fb := rfl
@[simp] theorem setSP_running (k : Nibble) : (s.setSP k).running = s.running := rfl
@[simp] theorem setSP_needsRepaint (k : Nibble) : (s.setSP k).needsRepaint = s.needsRepaint := rfl
@[simp] theorem setSP_halt (k : Nibble) : (s.setSP k).halt = s.halt := rfl
@[simp] theorem setSP_status (k : Nibble) : (s.setSP k).status = s.status := rfl
@[simp] theorem setSP_ports (k : Nibble) : (s.setSP k).ports = s.ports := rfl
@[simp] theorem setSP_sample (k : Nibble) : (s.setSP k).sample = s.sample := rfl
@[simp] theorem setSP_loadOpen (k : Nibble) : (s.setSP k).loadOpen = s.loadOpen := rfl
@[simp] theorem setSP_fontset (k : Nibble) : (s.setSP k).fontset = s.fontset := rfl

@[simp] theorem setI_v (w : Word) : (s.setI w).v = s.v := rfl
@[simp] theorem setI_i (w : Word) : (s.setI w).i = w := rfl
@[simp] theorem setI_pc (w : Word) : (s.setI w).pc = s.pc := rfl
@[simp] theorem setI_sp (w : Word) : (s.setI w).sp = s.sp := rfl
@[simp] theorem setI_stack (w : Word) : (s.setI w).stack = s.stack := rfl
@[simp] theorem setI_dt (w : Word) : (s.setI w).dt = s.dt := rfl
@[simp] theorem setI_st (w : Word) : (s.setI w).st = s.st := rfl
@[simp] theorem setI_mem (w : Word) : (s.setI w).mem = s.mem := rfl
@[simp] theorem setI_fb (w : Word) : (s.setI w).fb = s.fb := rfl
@[simp] theorem setI_running (w : Word) : (s.setI w).running = s.running := rfl
@[simp] theorem setI_needsRepaint (w : Word) : (s.setI w).needsRepaint = s.needsRepaint := rfl
@[simp] theorem setI_halt (w : Word) : (s.setI w).halt = s.halt := rfl
@[simp] theorem setI_status (w : Word) : (s.setI w).status = s.status := rfl
@[simp] theorem setI_ports (w : Word) : (s.setI w).ports = s.ports := rfl
@[simp] theorem setI_sample (w : Word) : (s.setI w).sample = s.sample := rfl
@[simp] theorem setI_loadOpen (w : Word) : (s.setI w).loadOpen = s.loadOpen := rfl
@[simp] theorem setI_fontset (w : Word) : (s.setI w).fontset = s.fontset := rfl

@[simp] theorem setRegisters_v (v : Vector Byte 16) : (s.setRegisters v).v = v := rfl
@[simp] theorem setRegisters_i (v : Vector Byte 16) : (s.setRegisters v).i = s.i := rfl
@[simp] theorem setRegisters_pc (v : Vector Byte 16) : (s.setRegisters v).pc = s.pc := rfl
@[simp] theorem setRegisters_sp (v : Vector Byte 16) : (s.setRegisters v).sp = s.sp := rfl
@[simp] theorem setRegisters_stack (v : Vector Byte 16) : (s.setRegisters v).stack = s.stack := rfl
@[simp] theorem setRegisters_dt (v : Vector Byte 16) : (s.setRegisters v).dt = s.dt := rfl
@[simp] theorem setRegisters_st (v : Vector Byte 16) : (s.setRegisters v).st = s.st := rfl
@[simp] theorem setRegisters_mem (v : Vector Byte 16) : (s.setRegisters v).mem = s.mem := rfl
@[simp] theorem setRegisters_fb (v : Vector Byte 16) : (s.setRegisters v).fb = s.fb := rfl
@[simp] theorem setRegisters_running (v : Vector Byte 16) : (s.setRegisters v).running = s.running := rfl
@[simp] theorem setRegisters_needsRepaint (v : Vector Byte 16) : (s.setRegisters v).needsRepaint = s.needsRepaint := rfl
@[simp] theorem setRegisters_halt (v : Vector Byte 16) : (s.setRegisters v).halt = s.halt := rfl
@[simp] theorem setRegisters_status (v : Vector Byte 16) : (s.setRegisters v).status = s.status := rfl
@[simp] theorem setRegisters_ports (v : Vector Byte 16) : (s.setRegisters v).ports = s.ports := rfl
@[simp] theorem setRegisters_sample (v : Vector Byte 16) : (s.setRegisters v).sample = s.sample := rfl
@[simp] theorem setRegisters_loadOpen (v : Vector Byte 16) : (s.setRegisters v).loadOpen = s.loadOpen := rfl
@[simp] theorem setRegisters_fontset (v : Vector Byte 16) : (s.setRegisters v).fontset = s.fontset := rfl

@[simp] theorem setMem_v (m : List Host.Cell) : (s.setMem m).v = s.v := rfl
@[simp] theorem setMem_i (m : List Host.Cell) : (s.setMem m).i = s.i := rfl
@[simp] theorem setMem_pc (m : List Host.Cell) : (s.setMem m).pc = s.pc := rfl
@[simp] theorem setMem_sp (m : List Host.Cell) : (s.setMem m).sp = s.sp := rfl
@[simp] theorem setMem_stack (m : List Host.Cell) : (s.setMem m).stack = s.stack := rfl
@[simp] theorem setMem_dt (m : List Host.Cell) : (s.setMem m).dt = s.dt := rfl
@[simp] theorem setMem_st (m : List Host.Cell) : (s.setMem m).st = s.st := rfl
@[simp] theorem setMem_mem (m : List Host.Cell) : (s.setMem m).mem = m := rfl
@[simp] theorem setMem_fb (m : List Host.Cell) : (s.setMem m).fb = s.fb := rfl
@[simp] theorem setMem_running (m : List Host.Cell) : (s.setMem m).running = s.running := rfl
@[simp] theorem setMem_needsRepaint (m : List Host.Cell) : (s.setMem m).needsRepaint = s.needsRepaint := rfl
@[simp] theorem setMem_halt (m : List Host.Cell) : (s.setMem m).halt = s.halt := rfl
@[simp] theorem setMem_status (m : List Host.Cell) : (s.setMem m).status = s.status := rfl
@[simp] theorem setMem_ports (m : List Host.Cell) : (s.setMem m).ports = s.ports := rfl
@[simp] theorem setMem_sample (m : List Host.Cell) : (s.setMem m).sample = s.sample := rfl
@[simp] theorem setMem_loadOpen (m : List Host.Cell) : (s.setMem m).loadOpen = s.loadOpen := rfl
@[simp] theorem setMem_fontset (m : List Host.Cell) : (s.setMem m).fontset = s.fontset := rfl

@[simp] theorem setScreen_v (fb : Vector (BitVec 64) 32) : (s.setScreen fb).v = s.v := rfl
@[simp] theorem setScreen_i (fb : Vector (BitVec 64) 32) : (s.setScreen fb).i = s.i := rfl
@[simp] theorem setScreen_pc (fb : Vector (BitVec 64) 32) : (s.setScreen fb).pc = s.pc := rfl
@[simp] theorem setScreen_sp (fb : Vector (BitVec 64) 32) : (s.setScreen fb).sp = s.sp := rfl
@[simp] theorem setScreen_stack (fb : Vector (BitVec 64) 32) : (s.setScreen fb).stack = s.stack := rfl
@[simp] theorem setScreen_dt (fb : Vector (BitVec 64) 32) : (s.setScreen fb).dt = s.dt := rfl
@[simp] theorem setScreen_st (fb : Vector (BitVec 64) 32) : (s.setScreen fb).st = s.st := rfl
@[simp] theorem setScreen_mem (fb : Vector (BitVec 64) 32) : (s.setScreen fb).mem = s.mem := rfl
@[simp] theorem setScreen_fb (fb : Vector (BitVec 64) 32) : (s.setScreen fb).fb = fb := rfl
@[simp] theorem setScreen_running (fb : Vector (BitVec 64) 32) : (s.setScreen fb).running = s.running := rfl
@[simp] theorem setScreen_needsRepaint (fb : Vector (BitVec 64) 32) : (s.setScreen fb).needsRepaint = true := rfl
@[simp] theorem setScreen_halt (fb : Vector (BitVec 64) 32) : (s.setScreen fb).halt = s.halt := rfl
@[simp] theorem setScreen_status (fb : Vector (BitVec 64) 32) : (s.setScreen fb).status = s.status := rfl
@[simp] theorem setScreen_ports (fb : Vector (BitVec 64) 32) : (s.setScreen fb).ports = s.ports := rfl
@[simp] theorem setScreen_sample (fb : Vector (BitVec 64) 32) : (s.setScreen fb).sample = s.sample := rfl
@[simp] theorem setScreen_loadOpen (fb : Vector (BitVec 64) 32) : (s.setScreen fb).loadOpen = s.loadOpen := rfl
@[simp] theorem setScreen_fontset (fb : Vector (BitVec 64) 32) : (s.setScreen fb).fontset = s.fontset := rfl

@[simp] theorem setDT_v (b : Byte) : (s.setDT b).v = s.v := rfl
@[simp] theorem setDT_i (b : Byte) : (s.setDT b).i = s.i := rfl
@[simp] theorem setDT_pc (b : Byte) : (s.setDT b).pc = s.pc := rfl
@[simp] theorem setDT_sp (b : Byte) : (s.setDT b).sp = s.sp := rfl
@[simp] theorem setDT_stack (b : Byte) : (s.setDT b).stack = s.stack := rfl
@[simp] theorem setDT_dt (b : Byte) : (s.setDT b).dt = b := rfl
@[simp] theorem setDT_st (b : Byte) : (s.setDT b).st = s.st := rfl
@[simp] theorem setDT_mem (b : Byte) : (s.setDT b).mem = s.mem := rfl
@[simp] theorem setDT_fb (b : Byte) : (s.setDT b).fb = s.fb := rfl
@[simp] theorem setDT_running (b : Byte) : (s.setDT b).running = s.running := rfl
@[simp] theorem setDT_needsRepaint (b : Byte) : (s.setDT b).needsRepaint = s.needsRepaint := rfl
@[simp] theorem setDT_halt (b : Byte) : (s.setDT b).halt = s.halt := rfl
@[simp] theorem setDT_status (b : Byte) : (s.setDT b).status = s.status := rfl
@[simp] theorem setDT_ports (b : Byte) : (s.setDT b).ports = s.ports := rfl
@[simp] theorem setDT_sample (b : Byte) : (s.setDT b).sample = s.sample := rfl
@[simp] theorem setDT_loadOpen (b : Byte) : (s.setDT b).loadOpen = s.loadOpen := rfl
@[simp] theorem setDT_fontset (b : Byte) : (s.setDT b).fontset = s.fontset := rfl

@[simp] theorem setST_v (b : Byte) : (s.setST b).v = s.v := rfl
@[simp] theorem setST_i (b : Byte) : (s.setST b).i = s.i := rfl
@[simp] theorem setST_pc (b : Byte) : (s.setST b).pc = s.pc := rfl
@[simp] theorem setST_sp (b : Byte) : (s.setST b).sp = s.sp := rfl
@[simp] theorem setST_stack (b : Byte) : (s.setST b).stack = s.stack := rfl
@[simp] theorem setST_dt (b : Byte) : (s.setST b).dt = s.dt := rfl
@[simp] theorem setST_st (b : Byte) : (s.setST b).st = b := rfl
@[simp] theorem setST_mem (b : Byte) : (s.setST b).mem = s.mem := rfl
@[simp] theorem setST_fb (b : Byte) : (s.setST b).fb = s.fb := rfl
@[simp] theorem setST_running (b : Byte) : (s.setST b).running = s.running := rfl
@[simp] theorem setST_needsRepaint (b : Byte) : (s.setST b).needsRepaint = s.needsRepaint := rfl
@[simp] theorem setST_halt (b : Byte) : (s.setST b).halt = s.halt := rfl
@[simp] theorem setST_status (b : Byte) : (s.setST b).status = s.status := rfl
@[simp] theorem setST_ports (b : Byte) : (s.setST b).ports = s.ports := rfl
@[simp] theorem setST_sample (b : Byte) : (s.setST b).sample = s.sample := rfl
@[simp] theorem setST_loadOpen (b : Byte) : (s.setST b).loadOpen = s.loadOpen := rfl
@[simp] theorem setST_fontset (b : Byte) : (s.setST b).fontset = s.fontset := rfl

@[simp] theorem storeBytes_v (a : Nat) (bs : List Byte) : (s.storeBytes a bs).v = s.v := rfl
@[simp] theorem storeBytes_i (a : Nat) (bs : List Byte) : (s.storeBytes a bs).i = s.i := rfl
@[simp] theorem storeBytes_pc (a : Nat) (bs : List Byte) : (s.storeBytes a bs).pc = s.pc := rfl
@[simp] theorem storeBytes_sp (a : Nat) (bs : List Byte) : (s.storeBytes a bs).sp = s.sp := rfl
@[simp] theorem storeBytes_stack (a : Nat) (bs : List Byte) : (s.storeBytes a bs).stack = s.stack := rfl
@[simp] theorem storeBytes_dt (a : Nat) (bs : List Byte) : (s.storeBytes a bs).dt = s.dt := rfl
@[simp] theorem storeBytes_st (a : Nat) (bs : List Byte) : (s.storeBytes a bs).st = s.st := rfl
@[simp] theorem storeBytes_fb (a : Nat) (bs : List Byte) : (s.storeBytes a bs).fb = s.fb := rfl
@[simp] theorem storeBytes_running (a : Nat) (bs : List Byte) : (s.storeBytes a bs).running = s.running := rfl
@[simp] theorem storeBytes_needsRepaint (a : Nat) (bs : List Byte) : (s.storeBytes a bs).needsRepaint = s.needsRepaint := rfl
@[simp] theorem storeBytes_halt (a : Nat) (bs : List Byte) : (s.storeBytes a bs).halt = s.halt := rfl
@[simp] theorem storeBytes_status (a : Nat) (bs : List Byte) : (s.storeBytes a bs).status = s.status := rfl
@[simp] theorem storeBytes_ports (a : Nat) (bs : List Byte) : (s.storeBytes a bs).ports = s.ports := rfl
@[simp] theorem storeBytes_sample (a : Nat) (bs : List Byte) : (s.storeBytes a bs).sample = s.sample := rfl
@[simp] theorem storeBytes_loadOpen (a : Nat) (bs : List Byte) : (s.storeBytes a bs).loadOpen = s.loadOpen := rfl
@[simp] theorem storeBytes_fontset (a : Nat) (bs : List Byte) : (s.storeBytes a bs).fontset = s.fontset := rfl
@[simp] theorem storeBytes_mem (a : Nat) (bs : List Byte) :
    (s.storeBytes a bs).mem = Memory.writeBytes s.fontset s.mem a bs := rfl

end Sys2Proof.Machine
end

