-- ==== Sys2Proof/Laws/Registers.lean ====
section
/-! SUPPORT. Reading a register or a stack slot after it, or another, was written; and after any other update. -/

namespace Sys2Proof.Machine

/-- `V[r]` after a write of `V[x]` (R21). -/
@[simp] theorem getV_setV (s : State) (x r : Nibble) (b : Byte) :
    (s.setV x b).getV r = if r = x then b else s.getV r := by
  simp only [State.getV, State.setV, Vector.getElem_set]
  by_cases h : r = x
  · subst h; simp
  · rw [if_neg fun e => h (BitVec.eq_of_toNat_eq e).symm, if_neg h]

/-- `V[r]` after a flag and a result were written: the result lands last (R171). -/
@[simp] theorem getV_setFlagThenV (s : State) (x r : Nibble) (f b : Byte) :
    (s.setFlagThenV f x b).getV r = if r = x then b else if r = 15 then f else s.getV r := by
  simp [State.setFlagThenV]

/-- `stack[r]` after a write of `stack[k]` (R28). -/
@[simp] theorem getSlot_setSlot (s : State) (k r : Nibble) (w : Word) :
    (s.setSlot k w).getSlot r = if r = k then w else s.getSlot r := by
  simp only [State.getSlot, State.setSlot, Vector.getElem_set]
  by_cases h : r = k
  · subst h; simp
  · rw [if_neg fun e => h (BitVec.eq_of_toNat_eq e).symm, if_neg h]

/-- Registers are read through `v` alone. -/
theorem getV_congr {s t : State} (h : t.v = s.v) (r : Nibble) : t.getV r = s.getV r := by
  simp [State.getV, h]

/-- Slots are read through `stack` alone. -/
theorem getSlot_congr {s t : State} (h : t.stack = s.stack) (k : Nibble) : t.getSlot k = s.getSlot k := by
  simp [State.getSlot, h]

/-- The register file is its sixteen registers. -/
theorem v_ext {s t : State} (h : ∀ r, t.getV r = s.getV r) : t.v = s.v := by
  apply Vector.ext
  intro k hk
  have := h (BitVec.ofNat 4 k)
  simpa [State.getV, Nat.mod_eq_of_lt hk] using this

section Frames

variable (s : State)

@[simp] theorem getSlot_setV (x : Nibble) (b : Byte) (k : Nibble) : (s.setV x b).getSlot k = s.getSlot k := rfl
@[simp] theorem getSlot_setFlagThenV (f : Byte) (x : Nibble) (b : Byte) (k : Nibble) :
    (s.setFlagThenV f x b).getSlot k = s.getSlot k := rfl
@[simp] theorem getV_setSlot (k : Nibble) (w : Word) (r : Nibble) : (s.setSlot k w).getV r = s.getV r := rfl
@[simp] theorem getV_retireAt (w : Word) (r : Nibble) : (s.retireAt w).getV r = s.getV r := rfl
@[simp] theorem getSlot_retireAt (w : Word) (k : Nibble) : (s.retireAt w).getSlot k = s.getSlot k := rfl
@[simp] theorem getV_nextPC (r : Nibble) : s.nextPC.getV r = s.getV r := rfl
@[simp] theorem getSlot_nextPC (k : Nibble) : s.nextPC.getSlot k = s.getSlot k := rfl
@[simp] theorem getV_skipWhen (c : Bool) (r : Nibble) : (s.skipWhen c).getV r = s.getV r := by cases c <;> rfl
@[simp] theorem getSlot_skipWhen (c : Bool) (k : Nibble) : (s.skipWhen c).getSlot k = s.getSlot k := by
  cases c <;> rfl
@[simp] theorem getV_endWith (q : Status) (r : Nibble) : (s.endWith q).getV r = s.getV r := rfl
@[simp] theorem getSlot_endWith (q : Status) (k : Nibble) : (s.endWith q).getSlot k = s.getSlot k := rfl
@[simp] theorem getV_haltWith (c : HaltCause) (w a : Word) (r : Nibble) : (s.haltWith c w a).getV r = s.getV r := rfl
@[simp] theorem getSlot_haltWith (c : HaltCause) (w a : Word) (k : Nibble) :
    (s.haltWith c w a).getSlot k = s.getSlot k := rfl
@[simp] theorem getV_raise (c : HaltCause) (w a : Word) (r : Nibble) : (s.raise c w a).getV r = s.getV r := rfl
@[simp] theorem getSlot_raise (c : HaltCause) (w a : Word) (k : Nibble) :
    (s.raise c w a).getSlot k = s.getSlot k := rfl
@[simp] theorem getV_afterStep (r : Nibble) : s.afterStep.getV r = s.getV r := rfl
@[simp] theorem getSlot_afterStep (k : Nibble) : s.afterStep.getSlot k = s.getSlot k := rfl
@[simp] theorem getV_setSP (k : Nibble) (r : Nibble) : (s.setSP k).getV r = s.getV r := rfl
@[simp] theorem getSlot_setSP (p : Nibble) (k : Nibble) : (s.setSP p).getSlot k = s.getSlot k := rfl
@[simp] theorem getV_setI (w : Word) (r : Nibble) : (s.setI w).getV r = s.getV r := rfl
@[simp] theorem getSlot_setI (w : Word) (k : Nibble) : (s.setI w).getSlot k = s.getSlot k := rfl
@[simp] theorem getSlot_setRegisters (v : Vector Byte 16) (k : Nibble) : (s.setRegisters v).getSlot k = s.getSlot k := rfl
@[simp] theorem getV_setMem (m : List Host.Cell) (r : Nibble) : (s.setMem m).getV r = s.getV r := rfl
@[simp] theorem getSlot_setMem (m : List Host.Cell) (k : Nibble) : (s.setMem m).getSlot k = s.getSlot k := rfl
@[simp] theorem getV_storeBytes (a : Nat) (bs : List Byte) (r : Nibble) :
    (s.storeBytes a bs).getV r = s.getV r := rfl
@[simp] theorem getSlot_storeBytes (a : Nat) (bs : List Byte) (k : Nibble) :
    (s.storeBytes a bs).getSlot k = s.getSlot k := rfl
@[simp] theorem getV_setScreen (fb : Vector (BitVec 64) 32) (r : Nibble) : (s.setScreen fb).getV r = s.getV r := rfl
@[simp] theorem getSlot_setScreen (fb : Vector (BitVec 64) 32) (k : Nibble) : (s.setScreen fb).getSlot k = s.getSlot k := rfl
@[simp] theorem getV_setDT (b : Byte) (r : Nibble) : (s.setDT b).getV r = s.getV r := rfl
@[simp] theorem getSlot_setDT (b : Byte) (k : Nibble) : (s.setDT b).getSlot k = s.getSlot k := rfl
@[simp] theorem getV_setST (b : Byte) (r : Nibble) : (s.setST b).getV r = s.getV r := rfl
@[simp] theorem getSlot_setST (b : Byte) (k : Nibble) : (s.setST b).getSlot k = s.getSlot k := rfl
theorem getV_setRegisters (v : Vector Byte 16) (r : Nibble) : (s.setRegisters v).getV r = v[r.toNat]'r.isLt := rfl

end Frames

end Sys2Proof.Machine
end

