-- ==== Sys2Proof/Laws/Exec.lean ====
section
/-! SUPPORT. What the execute phase and a step can answer, said once. -/

namespace Sys2Proof.Machine

@[simp] theorem mapNext_next (f : State → State) (s : State) : mapNext f (.next s) = .next (f s) := rfl

/-- Every meaning answers a next state. -/
theorem exec_answers_next (i : Instr) (s : State) : ∃ t, exec i s = .next t := by
  cases i <;> exact ⟨_, rfl⟩

/-- The fields no instruction touches. -/
structure Untouched (s t : State) : Prop where
  ports : t.ports = s.ports
  sample : t.sample = s.sample
  loadOpen : t.loadOpen = s.loadOpen
  fontset : t.fontset = s.fontset

/-- The ways an instruction can end (R120, R128). -/
inductive Ending (i : Instr) (s t : State) : Prop where
  /-- A fault: only `running`, the halt record and the status output changed (R269). -/
  | faulted (c : HaltCause) (info : Word) (hc : c ≠ .none ∧ c ≠ .sysHalt ∧ c ≠ .hostQuit) (h : t = s.raise c (encode i) info)
  /-- A key wait: nothing changed (R245). -/
  | waiting (x : Nibble) (hi : i = .ldVxK x) (hk : s.ports.keyFirst = none) (h : t = s.endWith .waiting)
  /-- SYS (R141). -/
  | halted (nnn : Addr12) (hi : i = .sys nnn) (h : t = (s.haltWith .sysHalt (encode i) 0).nextPC)
  /-- Any other retirement: the run state and the halt record stay. -/
  | retired (hs : t.status = .retired) (hr : t.running = s.running) (hh : t.halt = s.halt) (hu : Untouched s t)

/-- A skip retires. -/
theorem Ending.skip (i : Instr) (s : State) (c : Bool) : Ending i s (s.skipWhen c) :=
  .retired (by simp) (by simp) (by simp) ⟨by simp, by simp, by simp, by simp⟩

/-- Inversion of the execute phase. -/
theorem exec_ending {i : Instr} {s t : State} (h : exec i s = .next t) : Ending i s t := by
  cases i with
  | ret =>
    simp only [exec, execRet, Host.Outcome.next.injEq] at h
    split at h
    · exact .faulted .stackUnderflow 0 (by simp) h.symm
    · exact h ▸ .retired rfl rfl rfl ⟨rfl, rfl, rfl, rfl⟩
  | sys nnn =>
    simp only [exec, execSys, Host.Outcome.next.injEq] at h
    exact .halted nnn rfl h.symm
  | call nnn =>
    simp only [exec, execCall, Host.Outcome.next.injEq] at h
    split at h
    · exact .faulted .stackOverflow 15 (by simp) h.symm
    · exact h ▸ .retired rfl rfl rfl ⟨rfl, rfl, rfl, rfl⟩
  | drw x y n =>
    simp only [exec, execDrw, Host.Outcome.next.injEq] at h
    split at h
    · exact .faulted .addressOutOfRange _ (by simp) h.symm
    · split at h
      · exact .faulted .framebufferOutOfRange _ (by simp) h.symm
      · exact h ▸ .retired rfl rfl rfl ⟨rfl, rfl, rfl, rfl⟩
  | skp x | sknp x =>
    simp only [exec, execSkp, execSknp, Host.Outcome.next.injEq] at h
    split at h
    · exact .faulted .keyOutOfRange _ (by simp) h.symm
    · exact h ▸ Ending.skip _ s _
  | ldVxK x =>
    simp only [exec, execLdVxK, Host.Outcome.next.injEq] at h
    split at h
    · rename_i hk
      exact .waiting x rfl hk h.symm
    · exact h ▸ .retired rfl rfl rfl ⟨rfl, rfl, rfl, rfl⟩
  | ldBVx x | ldMemVx x | ldVxMem x =>
    simp only [exec, execLdBVx, execLdMemVx, execLdVxMem, Host.Outcome.next.injEq] at h
    split at h
    · exact .faulted .addressOutOfRange _ (by simp) h.symm
    · exact h ▸ .retired rfl rfl rfl ⟨rfl, rfl, rfl, rfl⟩
  | seImm x kk | sneImm x kk | seReg x y | sneReg x y =>
    cases h
    exact Ending.skip _ s _
  | _ => exact Host.Outcome.next.inj h ▸ .retired rfl rfl rfl ⟨rfl, rfl, rfl, rfl⟩

/-- The ways a step can end. -/
inductive StepEnding (s t : State) : Prop where
  /-- The engine was halted (R121). -/
  | idle (hr : s.running = false) (h : t = (s.endWith .idle).afterStep)
  /-- No word at `PC` (R64, R264). -/
  | fetchFault (hr : s.running = true) (a : Word) (hf : fetch s = .error a)
      (h : t = (s.raise .addressOutOfRange 0 a).afterStep)
  /-- A word that is no instruction (R123, R261). -/
  | unrecognized (hr : s.running = true) (w : Word) (hf : fetch s = .ok w) (e : Reject) (hd : decode w = .error e)
      (h : t = (s.raise .unrecognizedOpcode w 0).afterStep)
  /-- An instruction was executed (R120). -/
  | executed (hr : s.running = true) (w : Word) (hf : fetch s = .ok w) (i : Instr) (hd : decode w = .ok i) (u : State)
      (he : exec i s = .next u) (h : t = u.afterStep)

/-- Inversion of a step. -/
theorem step_ending {s t : State} (h : step s = .next t) : StepEnding s t := by
  unfold step stepBlock at h
  split at h
  · rename_i hr
    unfold fetchDecodeExecute at h
    split at h
    · rename_i a hf
      exact .fetchFault hr a hf (Host.Outcome.next.inj h).symm
    · rename_i w hf
      split at h
      · rename_i e hd
        exact .unrecognized hr w hf e hd (Host.Outcome.next.inj h).symm
      · rename_i i hd
        obtain ⟨u, hu⟩ := exec_answers_next i s
        rw [hu] at h
        exact .executed hr w hf i hd u hu (Host.Outcome.next.inj h).symm
  · rename_i hr
    exact .idle (by simpa using hr) (Host.Outcome.next.inj h).symm

/-- A step that executes: `step` is `exec` of the decoded instruction, then the ports' next sample. -/
theorem step_of_decode {s : State} {w : Word} {i : Instr} (hr : s.running = true) (hf : fetch s = .ok w)
    (hd : decode w = .ok i) : stepBlock s = exec i s := by
  simp [stepBlock, fetchDecodeExecute, hr, hf, hd]

end Sys2Proof.Machine
end

