-- ==== Sys2Proof/Laws/Memory.lean ====
section
/-! SUPPORT. The memory laws: a read after a write, the canonical form, blocks of bytes. -/

namespace Sys2Proof.Machine

variable {f : Fontset}

/-- An unlisted address reads as its reset contents. -/
theorem read_of_not_mem {m : List Host.Cell} {a : Nat} (h : ∀ c ∈ m, c.1 ≠ a) :
    Memory.read f m a = Memory.unlisted f a := by
  induction m with
  | nil => rfl
  | cons c m ih =>
    simp only [List.mem_cons, forall_eq_or_imp] at h
    simp [Memory.read, h.1, ih h.2]

/-- Reading past a new first cell. -/
theorem read_cons {m : List Host.Cell} {a : Nat} (b : Byte) (h : ∀ c ∈ m, a < c.1) (k : Nat) :
    Memory.read f (Memory.cons f a b m) k = if k = a then b else Memory.read f m k := by
  unfold Memory.cons
  split
  · rename_i hb
    split
    · rename_i hk
      rw [hk, hb, read_of_not_mem fun c hc => Nat.ne_of_gt (h c hc)]
    · rfl
  · simp only [Memory.read, eq_comm (a := a)]

/-- A read after a write, at the written address and elsewhere (R68). The list need only be rising. -/
theorem read_write {m : List Host.Cell} (h : m.Pairwise fun c d => c.1 < d.1) (a k : Nat) (b : Byte) :
    Memory.read f (Memory.write f m a b) k = if k = a then b else Memory.read f m k := by
  induction m with
  | nil => exact read_cons b (by simp) k
  | cons c m ih =>
    rw [List.pairwise_cons] at h
    obtain ⟨hc, hm⟩ := h
    unfold Memory.write
    split
    · rename_i hlt
      refine read_cons b ?_ k
      intro d hd
      rcases List.mem_cons.1 hd with rfl | hd
      · exact hlt
      · exact Nat.lt_trans hlt (hc d hd)
    · split
      · rename_i heq
        rw [read_cons b (fun d hd => heq ▸ hc d hd) k]
        split
        · rfl
        · rename_i hk
          simp only [Memory.read]
          rw [if_neg (fun e => hk (by omega))]
      · rename_i hge hne
        simp only [Memory.read, ih hm]
        split
        · rename_i hck
          rw [if_neg (fun e => hne (by omega))]
        · rfl

/-- A write leaves every other place alone, whatever the list. -/
theorem read_write_ne (m : List Host.Cell) {a k : Nat} (b : Byte) (h : k ≠ a) :
    Memory.read f (Memory.write f m a b) k = Memory.read f m k := by
  have key : ∀ m', Memory.read f (Memory.cons f a b m') k = Memory.read f m' k := by
    intro m'
    unfold Memory.cons
    split
    · rfl
    · simp only [Memory.read]
      rw [if_neg (Ne.symm h)]
  induction m with
  | nil => exact key []
  | cons c m ih =>
    unfold Memory.write
    split
    · exact key _
    · split
      · rename_i e
        rw [key]
        simp only [Memory.read]
        rw [if_neg (by omega)]
      · simp only [Memory.read, ih]

/-- Storing bytes leaves every place outside them alone, whatever the list. -/
theorem read_writeBytes_outside (m : List Host.Cell) {base : Nat} {bs : List Byte} {k : Nat}
    (h : k < base ∨ base + bs.length ≤ k) : Memory.read f (Memory.writeBytes f m base bs) k = Memory.read f m k := by
  induction bs generalizing m base with
  | nil => rfl
  | cons b bs ih =>
    simp only [List.length_cons] at h
    rw [Memory.writeBytes, ih _ (by omega), read_write_ne _ _ (by omega)]

/-- The cells after a write come from the old ones and the written one. -/
theorem mem_write {m : List Host.Cell} {a : Nat} {b : Byte} {c : Host.Cell} (h : c ∈ Memory.write f m a b) :
    c ∈ m ∨ (c = (a, b) ∧ b ≠ Memory.unlisted f a) := by
  have key : ∀ m' : List Host.Cell, c ∈ Memory.cons f a b m' → c ∈ m' ∨ (c = (a, b) ∧ b ≠ Memory.unlisted f a) := by
    intro m' h
    unfold Memory.cons at h
    split at h
    · exact .inl h
    · rename_i hb
      rcases List.mem_cons.1 h with rfl | h
      · exact .inr ⟨rfl, hb⟩
      · exact .inl h
  induction m with
  | nil => exact key _ h
  | cons d m ih =>
    unfold Memory.write at h
    split at h
    · exact key _ h
    · split at h
      · exact (key _ h).imp_left (List.mem_cons_of_mem d)
      · rcases List.mem_cons.1 h with rfl | h
        · exact .inl List.mem_cons_self
        · exact (ih h).imp_left (List.mem_cons_of_mem d)

/-- A write keeps the list rising. -/
theorem pairwise_write {m : List Host.Cell} (h : m.Pairwise fun c d => c.1 < d.1) (a : Nat) (b : Byte) :
    (Memory.write f m a b).Pairwise fun c d => c.1 < d.1 := by
  have key : ∀ m' : List Host.Cell, (m'.Pairwise fun c d => c.1 < d.1) → (∀ c ∈ m', a < c.1) →
      (Memory.cons f a b m').Pairwise fun c d => c.1 < d.1 := by
    intro m' hm' hlt
    unfold Memory.cons
    split
    · exact hm'
    · exact List.pairwise_cons.2 ⟨hlt, hm'⟩
  induction m with
  | nil => exact key [] List.Pairwise.nil (by simp)
  | cons d m ih =>
    have hd := List.pairwise_cons.1 h
    unfold Memory.write
    split
    · rename_i hlt
      refine key _ h fun c hc => ?_
      rcases List.mem_cons.1 hc with rfl | hc
      · exact hlt
      · exact Nat.lt_trans hlt (hd.1 c hc)
    · split
      · rename_i heq
        exact key _ hd.2 fun c hc => heq ▸ hd.1 c hc
      · rename_i hge hne
        refine List.pairwise_cons.2 ⟨fun c hc => ?_, ih hd.2⟩
        rcases mem_write hc with hc | ⟨rfl, -⟩
        · exact hd.1 c hc
        · exact Nat.lt_of_le_of_ne (Nat.le_of_not_lt hge) fun e => hne e.symm

/-- A write keeps the canonical form. -/
theorem wf_write {m : List Host.Cell} (h : Memory.wf f m) {a : Nat} (ha : a < Config.memSize) (b : Byte) :
    Memory.wf f (Memory.write f m a b) := by
  refine ⟨pairwise_write h.1 a b, fun c hc => ?_⟩
  rcases mem_write hc with hc | ⟨rfl, hb⟩
  · exact h.2 c hc
  · exact ⟨ha, hb⟩

/-- Storing bytes keeps the canonical form. -/
theorem wf_writeBytes {m : List Host.Cell} (h : Memory.wf f m) (base : Nat) (bs : List Byte)
    (hr : base + bs.length ≤ Config.memSize) : Memory.wf f (Memory.writeBytes f m base bs) := by
  induction bs generalizing m base with
  | nil => exact h
  | cons b bs ih =>
    simp only [List.length_cons] at hr
    exact ih (wf_write h (by omega) b) (base + 1) (by omega)

/-- A read after a block of bytes was stored: the byte at its place inside the block, the old byte outside (R65). -/
theorem read_writeBytes {m : List Host.Cell} (h : m.Pairwise fun c d => c.1 < d.1) (base : Nat) (bs : List Byte)
    (k : Nat) :
    Memory.read f (Memory.writeBytes f m base bs) k =
      if base ≤ k ∧ k < base + bs.length then bs.getD (k - base) 0 else Memory.read f m k := by
  induction bs generalizing m base with
  | nil =>
    rw [if_neg (by simp)]
    rfl
  | cons b bs ih =>
    simp only [Memory.writeBytes, List.length_cons]
    rw [ih (pairwise_write h base b), read_write h]
    by_cases hk : k = base
    · subst hk
      simp
    · by_cases hin : base + 1 ≤ k ∧ k < base + 1 + bs.length
      · have hin' : base ≤ k ∧ k < base + (bs.length + 1) := by omega
        rw [if_pos hin, if_pos hin']
        obtain ⟨j, rfl⟩ : ∃ j, k = base + 1 + j := ⟨k - (base + 1), by omega⟩
        have h1 : base + 1 + j - (base + 1) = j := by omega
        have h2 : base + 1 + j - base = j + 1 := by omega
        rw [h1, h2]
        simp
      · have hin' : ¬(base ≤ k ∧ k < base + (bs.length + 1)) := by omega
        rw [if_neg hin, if_neg hin', if_neg hk]

/-- How many bytes `readBytes` gives. -/
@[simp] theorem length_readBytes (m : List Host.Cell) (base n : Nat) : (Memory.readBytes f m base n).length = n := by
  simp [Memory.readBytes]

/-- The `k`-th byte of a block. -/
theorem getD_readBytes (m : List Host.Cell) (base n k : Nat) :
    (Memory.readBytes f m base n).getD k 0 = if k < n then Memory.read f m (base + k) else 0 := by
  by_cases h : k < n <;> simp [Memory.readBytes, h]

/-- The number of bytes Fx55 stores. -/
@[simp] theorem length_registerBlock (s : State) (x : Nibble) : (registerBlock s x).length = blockLength x := by
  have := x.isLt
  simp only [registerBlock, List.length_take, Vector.length_toList, blockLength]
  omega

/-- The bytes Fx55 stores are `V[0]`..`V[x]` in order (R204). -/
theorem getD_registerBlock (s : State) (x : Nibble) (k : Nat) (h : k < blockLength x) :
    (registerBlock s x).getD k 0 = s.getV (BitVec.ofNat 4 k) := by
  have hx := x.isLt
  have hk : k < 16 := by unfold blockLength at h; omega
  simp [registerBlock, State.getV, List.getD_eq_getElem?_getD, h, hk, Nat.mod_eq_of_lt hk]

/-- A register after the block load of Fx65 (R205). -/
theorem getV_loadBlock (s : State) (base : Nat) (x r : Nibble) :
    (loadBlock s base x)[r.toNat]'r.isLt =
      if r.toNat ≤ x.toNat then s.byteAt (base + r.toNat) else s.getV r := by
  simp [loadBlock, State.getV, blockLength, Nat.lt_succ_iff]

/-- The memory after reset is in canonical form, whatever the fontset. -/
theorem wf_resetWith (f : Fontset) : Memory.wf f (State.resetWith f).mem := ⟨List.Pairwise.nil, nofun⟩

/-- A byte is read through the fontset and the memory alone. -/
theorem byteAt_congr {s t : State} (hf : t.fontset = s.fontset) (hm : t.mem = s.mem) (a : Nat) :
    t.byteAt a = s.byteAt a := by
  simp [State.byteAt, hf, hm]

/-- A byte after a store: the byte at its place inside the block, the old byte outside (R65). -/
theorem byteAt_storeBytes {s : State} (h : s.mem.Pairwise fun c d => c.1 < d.1) (base : Nat) (bs : List Byte) (k : Nat) :
    (s.storeBytes base bs).byteAt k =
      if base ≤ k ∧ k < base + bs.length then bs.getD (k - base) 0 else s.byteAt k :=
  read_writeBytes h base bs k

/-- A store leaves every byte outside it alone, whatever the list. -/
theorem byteAt_storeBytes_outside (s : State) {base : Nat} {bs : List Byte} {k : Nat}
    (h : k < base ∨ base + bs.length ≤ k) : (s.storeBytes base bs).byteAt k = s.byteAt k :=
  read_writeBytes_outside s.mem h

/-- The `k`-th byte of a block of memory. -/
theorem getD_bytesAt (s : State) (base n k : Nat) :
    (s.bytesAt base n).getD k 0 = if k < n then s.byteAt (base + k) else 0 :=
  getD_readBytes s.mem base n k

/-- How many bytes `bytesAt` gives. -/
@[simp] theorem length_bytesAt (s : State) (base n : Nat) : (s.bytesAt base n).length = n :=
  length_readBytes s.mem base n

/-- A byte of memory, for each update that leaves memory alone. -/
@[simp] theorem byteAt_setV (s : State) (x : Nibble) (b : Byte) (a : Nat) : (s.setV x b).byteAt a = s.byteAt a := rfl
@[simp] theorem byteAt_setFlagThenV (s : State) (f : Byte) (x : Nibble) (b : Byte) (a : Nat) :
    (s.setFlagThenV f x b).byteAt a = s.byteAt a := rfl
@[simp] theorem byteAt_setSlot (s : State) (k : Nibble) (w : Word) (a : Nat) :
    (s.setSlot k w).byteAt a = s.byteAt a := rfl
@[simp] theorem byteAt_setSP (s : State) (k : Nibble) (a : Nat) : (s.setSP k).byteAt a = s.byteAt a := rfl
@[simp] theorem byteAt_setI (s : State) (w : Word) (a : Nat) : (s.setI w).byteAt a = s.byteAt a := rfl
@[simp] theorem byteAt_setRegisters (s : State) (v : Vector Byte 16) (a : Nat) :
    (s.setRegisters v).byteAt a = s.byteAt a := rfl
@[simp] theorem byteAt_setScreen (s : State) (fb : Vector (BitVec 64) 32) (a : Nat) :
    (s.setScreen fb).byteAt a = s.byteAt a := rfl
@[simp] theorem byteAt_setDT (s : State) (b : Byte) (a : Nat) : (s.setDT b).byteAt a = s.byteAt a := rfl
@[simp] theorem byteAt_setST (s : State) (b : Byte) (a : Nat) : (s.setST b).byteAt a = s.byteAt a := rfl
@[simp] theorem byteAt_retireAt (s : State) (w : Word) (a : Nat) : (s.retireAt w).byteAt a = s.byteAt a := rfl
@[simp] theorem byteAt_nextPC (s : State) (a : Nat) : s.nextPC.byteAt a = s.byteAt a := rfl
@[simp] theorem byteAt_skipWhen (s : State) (c : Bool) (a : Nat) : (s.skipWhen c).byteAt a = s.byteAt a := by
  cases c <;> rfl
@[simp] theorem byteAt_endWith (s : State) (q : Status) (a : Nat) : (s.endWith q).byteAt a = s.byteAt a := rfl
@[simp] theorem byteAt_haltWith (s : State) (c : HaltCause) (w i : Word) (a : Nat) :
    (s.haltWith c w i).byteAt a = s.byteAt a := rfl
@[simp] theorem byteAt_raise (s : State) (c : HaltCause) (w i : Word) (a : Nat) :
    (s.raise c w i).byteAt a = s.byteAt a := rfl
@[simp] theorem byteAt_afterStep (s : State) (a : Nat) : s.afterStep.byteAt a = s.byteAt a := rfl

/-- The check on an address range, inverted (R63, R264). -/
theorem firstOutside_eq_none {base n : Nat} : firstOutside base n = none ↔ n = 0 ∨ base + n ≤ 0x1000 := by
  unfold firstOutside Config.memSize
  split <;> simp_all

/-- The address a failed check reports (R264). -/
theorem firstOutside_eq_some {base n : Nat} {a : Word} :
    firstOutside base n = some a ↔ (n ≠ 0 ∧ 0x1000 < base + n) ∧ a = BitVec.ofNat 16 (max base 0x1000) := by
  unfold firstOutside Config.memSize
  split <;> rename_i h
  · simp only [reduceCtorEq, false_iff]; omega
  · simp only [Option.some.injEq, eq_comm (a := a)]
    constructor
    · exact fun e => ⟨by omega, e⟩
    · exact fun e => e.2

end Sys2Proof.Machine
end

