-- ==== Sys2Proof/Laws/PerInstr.lean ====
section
/-! SUPPORT. A law of every instruction: its word is selected by the mask and match of its row in the opcode map (R95). -/

namespace Sys2Proof.Laws.OpcodeRow

/-- The word of `i` lies in the row R95 gives `i`. -/
def Statement (i : Instr) : Prop := encode i &&& (opcodeRow i).1 = (opcodeRow i).2

theorem and_none {w : Nat} (a : BitVec w) : a &&& 0 = 0 := BitVec.and_zero

theorem and_fifteen (c : Nibble) : c &&& 0xF = c := BitVec.and_allOnes

theorem and_byte (b : Byte) : b &&& 0xFF = b := BitVec.and_allOnes

/-- Rows with mask 0xF000, format NNN. -/
theorem select_nnn (c : Nibble) (nnn : Addr12) : packNnn c nnn &&& 0xF000 = packNnn c 0 := by
  rw [show (0xF000 : Word) = packNnn 0xF 0 from rfl, packNnn_and, and_fifteen, and_none]

/-- Rows with mask 0xF000, format XKK. -/
theorem select_xkk (c x : Nibble) (kk : Byte) : packXKk c x kk &&& 0xF000 = packXKk c 0 0 := by
  rw [show (0xF000 : Word) = packXKk 0xF 0 0 from rfl, packXKk_and, and_fifteen, and_none, and_none]

/-- Rows with mask 0xF0FF, format X. -/
theorem select_x (c x : Nibble) (kk : Byte) : packXKk c x kk &&& 0xF0FF = packXKk c 0 kk := by
  rw [show (0xF0FF : Word) = packXKk 0xF 0 0xFF from rfl, packXKk_and, and_fifteen, and_none,
    and_byte]

/-- Rows with mask 0xF00F, format XY. -/
theorem select_xy (c x y n : Nibble) : packXYN c x y n &&& 0xF00F = packXYN c 0 0 n := by
  rw [show (0xF00F : Word) = packXYN 0xF 0 0 0xF from rfl, packXYN_and, and_fifteen, and_fifteen,
    and_none, and_none]

/-- The row with mask 0xF000, format XYN. -/
theorem select_xyn (c x y n : Nibble) : packXYN c x y n &&& 0xF000 = packXYN c 0 0 0 := by
  rw [show (0xF000 : Word) = packXYN 0xF 0 0 0 from rfl, packXYN_and, and_fifteen, and_none,
    and_none, and_none]

theorem cls : Statement (.cls) := rfl
theorem ret : Statement (.ret) := rfl
theorem sys (nnn : Addr12) : Statement (.sys nnn) := select_nnn _ _
theorem jp (nnn : Addr12) : Statement (.jp nnn) := select_nnn _ _
theorem call (nnn : Addr12) : Statement (.call nnn) := select_nnn _ _
theorem seImm (x : Nibble) (kk : Byte) : Statement (.seImm x kk) := select_xkk _ _ _
theorem sneImm (x : Nibble) (kk : Byte) : Statement (.sneImm x kk) := select_xkk _ _ _
theorem seReg (x y : Nibble) : Statement (.seReg x y) := select_xy _ _ _ _
theorem ldImm (x : Nibble) (kk : Byte) : Statement (.ldImm x kk) := select_xkk _ _ _
theorem addImm (x : Nibble) (kk : Byte) : Statement (.addImm x kk) := select_xkk _ _ _
theorem ldReg (x y : Nibble) : Statement (.ldReg x y) := select_xy _ _ _ _
theorem orReg (x y : Nibble) : Statement (.orReg x y) := select_xy _ _ _ _
theorem andReg (x y : Nibble) : Statement (.andReg x y) := select_xy _ _ _ _
theorem xorReg (x y : Nibble) : Statement (.xorReg x y) := select_xy _ _ _ _
theorem addReg (x y : Nibble) : Statement (.addReg x y) := select_xy _ _ _ _
theorem subReg (x y : Nibble) : Statement (.subReg x y) := select_xy _ _ _ _
theorem shr (x y : Nibble) : Statement (.shr x y) := select_xy _ _ _ _
theorem subn (x y : Nibble) : Statement (.subn x y) := select_xy _ _ _ _
theorem shl (x y : Nibble) : Statement (.shl x y) := select_xy _ _ _ _
theorem sneReg (x y : Nibble) : Statement (.sneReg x y) := select_xy _ _ _ _
theorem ldI (nnn : Addr12) : Statement (.ldI nnn) := select_nnn _ _
theorem jpV0 (nnn : Addr12) : Statement (.jpV0 nnn) := select_nnn _ _
theorem rnd (x : Nibble) (kk : Byte) : Statement (.rnd x kk) := select_xkk _ _ _
theorem drw (x y n : Nibble) : Statement (.drw x y n) := select_xyn _ _ _ _
theorem skp (x : Nibble) : Statement (.skp x) := select_x _ _ _
theorem sknp (x : Nibble) : Statement (.sknp x) := select_x _ _ _
theorem ldVxDt (x : Nibble) : Statement (.ldVxDt x) := select_x _ _ _
theorem ldVxK (x : Nibble) : Statement (.ldVxK x) := select_x _ _ _
theorem ldDtVx (x : Nibble) : Statement (.ldDtVx x) := select_x _ _ _
theorem ldStVx (x : Nibble) : Statement (.ldStVx x) := select_x _ _ _
theorem addIVx (x : Nibble) : Statement (.addIVx x) := select_x _ _ _
theorem ldFVx (x : Nibble) : Statement (.ldFVx x) := select_x _ _ _
theorem ldBVx (x : Nibble) : Statement (.ldBVx x) := select_x _ _ _
theorem ldMemVx (x : Nibble) : Statement (.ldMemVx x) := select_x _ _ _
theorem ldVxMem (x : Nibble) : Statement (.ldVxMem x) := select_x _ _ _

end Sys2Proof.Laws.OpcodeRow
end

