-- ==== Sys2Proof/Laws/Ports.lean ====
section
/-! SUPPORT. The free sample of the ports keeps the host's duty (R279), and any pressed key can be the first one. -/

namespace Sys2Proof.Machine

/-- `firstPressed` names a pressed key. -/
theorem keyDown_of_firstPressed {keys : BitVec 16} {start k : Nibble} (h : firstPressed keys start = some k) :
    keyDown keys k = true := List.find?_some h

/-- `firstPressed` names none only when none is pressed. -/
theorem keys_eq_zero_of_firstPressed {keys : BitVec 16} {start : Nibble} (h : firstPressed keys start = none) :
    keys = 0 := by
  apply BitVec.eq_of_getLsbD_eq
  intro k hk
  have hall := List.find?_eq_none.1 h
  have hmem : BitVec.ofNat 4 k ∈ (List.range 16).map fun d => start + BitVec.ofNat 4 d := by
    refine List.mem_map.2 ⟨(BitVec.ofNat 4 k - start).toNat, ?_, ?_⟩
    · exact List.mem_range.2 (BitVec.ofNat 4 k - start).isLt
    · rw [BitVec.ofNat_toNat, BitVec.setWidth_eq, BitVec.add_comm, BitVec.sub_add_cancel]
  have := hall _ hmem
  simpa [keyDown, Nat.mod_eq_of_lt hk] using this

/-- The free sample keeps the host's duty. -/
theorem sampledPorts_consistent (n : Nat) : portsConsistent (sampledPorts n) = true := by
  unfold portsConsistent sampledPorts
  dsimp only
  split
  · rename_i h
    simpa using keys_eq_zero_of_firstPressed h
  · rename_i k h
    exact keyDown_of_firstPressed h

/-- Any pressed key is the first one for some choice of the host: `KEY_PRIORITY` is left open (R279). -/
theorem firstPressed_self {keys : BitVec 16} {k : Nibble} (h : keyDown keys k = true) :
    firstPressed keys k = some k := by
  unfold firstPressed
  rw [show List.range 16 = 0 :: (List.range 15).map (· + 1) from rfl, List.map_cons, List.find?_cons_of_pos]
  · simp
  · simpa using h

end Sys2Proof.Machine
end

