-- ==== Sys2Proof/Tests/Slice0.lean ====
section
/-! SUPPORT. The model's own tests. Every expected result is one of the vectors of spec/95_test_vectors.md, named in the
docstring as section.number, or is written out from the rule named there; then the witnesses that the statements'
hypotheses can be met. -/

namespace Sys2Proof.Tests

open Sys2Proof.Machine

/-! ### Helpers -/

/-- The reset state with no key pressed and the random byte 0 on the ports: a state a test can evaluate. -/
def base : State := { State.reset with ports := { keys := 0, keyFirst := none, rnd := 0 } }

/-- `base` with these registers and this `I`. -/
def start (regs : List (Nibble × Byte)) (i : Word := 0) : State :=
  (regs.foldl (fun s r => s.setV r.1 r.2) base).setI i

/-- `s` with these bytes in memory from `a` on. -/
def withBytes (s : State) (a : Nat) (bytes : List Byte) : State := s.storeBytes a bytes

/-- `s` with these values on the input ports. -/
def withPorts (s : State) (keys : BitVec 16) (first : Option Nibble) (rnd : Byte) : State :=
  { s with ports := { keys := keys, keyFirst := first, rnd := rnd } }

/-- One step on the word `w` placed at `PC`. -/
def stepOn (w : Nat) (s : State) : Result := step (s.withFetchWord 16 w)

/-- The answer is a next state with this property. -/
def nextHas (r : Result) (p : State → Bool) : Bool :=
  match r with
  | .next t => p t
  | _ => false

/-- The step retired, `PC` being this. -/
def retiredAt (pc : Word) (t : State) : Bool := t.status == .retired && t.pc == pc && t.running

/-- The step faulted with this record, `PC` still at 0x0200. -/
def faultedWith (cause : BitVec 4) (opcode info : Word) (t : State) : Bool :=
  t.status == .faulted && !t.running && t.pc == 0x0200 && causeCode t.halt.cause == cause &&
    t.halt.opcode == opcode && t.halt.pc == 0x0200 && t.halt.info == info

/-- The lit pixels of the screen, row by row. -/
def litPixels (s : State) : List (Nat × Nat) :=
  (List.range 32).flatMap fun y => ((List.range 64).filter fun x => pixel s.fb x y).map fun x => (x, y)

/-- A next state with a property is a next state. -/
theorem next_of_nextHas {r : Result} {p : State → Bool} (h : nextHas r p = true) : ∃ t, r = .next t ∧ p t = true := by
  unfold nextHas at h
  split at h
  · exact ⟨_, rfl, h⟩
  · cases h

/-! ### Well-formedness -/

/-- R94: 00E0 is CLS, never a SYS. -/
theorem test_sys_0E0_ill_formed : Instr.wellFormed (.sys 0x0E0) = false := by decide

/-- R94: 00EE is RET, never a SYS. -/
theorem test_sys_0EE_ill_formed : Instr.wellFormed (.sys 0x0EE) = false := by decide

/-- R95 row 3: the other words of class 0 are SYS. -/
theorem test_sys_others_well_formed :
    Instr.wellFormed (.sys 0x0E1) = true ∧ Instr.wellFormed (.sys 0x000) = true ∧
      Instr.wellFormed (.sys 0xFFF) = true := by decide

/-! ### Decoding, one word of every constructor, bit by bit from its row of the opcode map (R95) -/

theorem test_decode_cls : decode 0b0000000011100000 = .ok .cls := by decide
theorem test_decode_ret : decode 0b0000000011101110 = .ok .ret := by decide
theorem test_decode_sys : decode 0b0000000100100011 = .ok (.sys 0x123) := by decide
theorem test_decode_jp : decode 0b0001101010111100 = .ok (.jp 0xABC) := by decide
theorem test_decode_call : decode 0b0010001000010000 = .ok (.call 0x210) := by decide
theorem test_decode_seImm : decode 0b0011000100000101 = .ok (.seImm 1 0x05) := by decide
theorem test_decode_sneImm : decode 0b0100001100101010 = .ok (.sneImm 3 0x2A) := by decide
theorem test_decode_seReg : decode 0b0101000100100000 = .ok (.seReg 1 2) := by decide
theorem test_decode_ldImm : decode 0b0110101000000010 = .ok (.ldImm 0xA 0x02) := by decide
theorem test_decode_addImm : decode 0b0111000111111111 = .ok (.addImm 1 0xFF) := by decide
theorem test_decode_ldReg : decode 0b1000000100100000 = .ok (.ldReg 1 2) := by decide
theorem test_decode_orReg : decode 0b1000000100100001 = .ok (.orReg 1 2) := by decide
theorem test_decode_andReg : decode 0b1000000100100010 = .ok (.andReg 1 2) := by decide
theorem test_decode_xorReg : decode 0b1000000100100011 = .ok (.xorReg 1 2) := by decide
theorem test_decode_addReg : decode 0b1000101010110100 = .ok (.addReg 0xA 0xB) := by decide
theorem test_decode_subReg : decode 0b1000000100100101 = .ok (.subReg 1 2) := by decide
theorem test_decode_shr : decode 0b1000000100100110 = .ok (.shr 1 2) := by decide
theorem test_decode_subn : decode 0b1000000100100111 = .ok (.subn 1 2) := by decide
theorem test_decode_shl : decode 0b1000000100101110 = .ok (.shl 1 2) := by decide
theorem test_decode_sneReg : decode 0b1001000100100000 = .ok (.sneReg 1 2) := by decide
theorem test_decode_ldI : decode 0b1010001100000001 = .ok (.ldI 0x301) := by decide
theorem test_decode_jpV0 : decode 0b1011001100000000 = .ok (.jpV0 0x300) := by decide
theorem test_decode_rnd : decode 0b1100001100001111 = .ok (.rnd 3 0x0F) := by decide
theorem test_decode_drw : decode 0b1101000100100101 = .ok (.drw 1 2 5) := by decide
theorem test_decode_skp : decode 0b1110001110011110 = .ok (.skp 3) := by decide
theorem test_decode_sknp : decode 0b1110001110100001 = .ok (.sknp 3) := by decide
theorem test_decode_ldVxDt : decode 0b1111000100000111 = .ok (.ldVxDt 1) := by decide
theorem test_decode_ldVxK : decode 0b1111001100001010 = .ok (.ldVxK 3) := by decide
theorem test_decode_ldDtVx : decode 0b1111000000010101 = .ok (.ldDtVx 0) := by decide
theorem test_decode_ldStVx : decode 0b1111010000011000 = .ok (.ldStVx 4) := by decide
theorem test_decode_addIVx : decode 0b1111001000011110 = .ok (.addIVx 2) := by decide
theorem test_decode_ldFVx : decode 0b1111000000101001 = .ok (.ldFVx 0) := by decide
theorem test_decode_ldBVx : decode 0b1111000000110011 = .ok (.ldBVx 0) := by decide
theorem test_decode_ldMemVx : decode 0b1111001001010101 = .ok (.ldMemVx 2) := by decide
theorem test_decode_ldVxMem : decode 0b1111000101100101 = .ok (.ldVxMem 1) := by decide

/-- R96, vectors 2.2.10, 2.3.34, 2.6.19: words of no row. -/
theorem test_decode_unrecognized :
    [0x5121, 0x912F, 0x8128, 0x812F, 0xE300, 0xF300, 0xF3FF].all
      (fun w => decode w == .error (.unrecognizedOpcode w)) = true := by decide

/-- R94: 00E1 is SYS, not CLS (vector 2.1.13). -/
theorem test_decode_sys_0E1 : decode 0x00E1 = .ok (.sys 0x0E1) := by decide

/-- R90: the first byte is the high byte; two bytes are needed. -/
theorem test_decodeBytes_order :
    decodeBytes [0x12, 0x34, 0x56] = .ok (.jp 0x234, [0x56]) ∧ decodeBytes [0x12] = .error .truncated := by decide

/-! ### Control transfer -/

/-- 2.1.1. -/
theorem test_jp : nextHas (stepOn 0x1ABC base) (retiredAt 0x0ABC) = true := by decide

/-- 2.1.4: the address of the CALL itself is pushed. -/
theorem test_call : nextHas (stepOn 0x2210 { base with pc := 0x0204 })
    (fun t => retiredAt 0x0210 t && t.sp == 1 && t.getSlot 1 == 0x0204 && t.getSlot 0 == 0) = true := by decide

/-- 2.1.5. -/
theorem test_call_overflow : nextHas (stepOn 0x2300 { base with sp := 15 })
    (fun t => faultedWith 2 0x2300 0x000F t && t.sp == 15 && t.stack == base.stack) = true := by decide

/-- 2.1.6: the return goes past the CALL; the slot keeps its value. -/
theorem test_ret : nextHas (stepOn 0x00EE ((base.setSP 1).setSlot 1 0x0204))
    (fun t => retiredAt 0x0206 t && t.sp == 0 && t.getSlot 1 == 0x0204) = true := by decide

/-- 2.1.7. -/
theorem test_ret_underflow : nextHas (stepOn 0x00EE base) (faultedWith 3 0x00EE 0x0000) = true := by decide

/-- 2.1.9: the sum is not cut to 12 bits. -/
theorem test_jpV0 : nextHas (stepOn 0xBFFF (start [(0, 0xFF)])) (retiredAt 0x10FE) = true := by decide

/-- 2.1.10: the `x` nibble selects nothing. -/
theorem test_jpV0_x : nextHas (stepOn 0xB300 (start [(3, 0x55), (0, 0x02)])) (retiredAt 0x0302) = true := by decide

/-- 2.1.12: SYS halts and retires. -/
theorem test_sys : nextHas (stepOn 0x0123 base)
    (fun t => t.status == .retired && !t.running && t.pc == 0x0202 && causeCode t.halt.cause == 7 &&
      t.halt.opcode == 0x0123 && t.halt.pc == 0x0200 && t.halt.info == 0) = true := by decide

/-! ### Skips -/

/-- 2.2.1, 2.2.2. -/
theorem test_seImm : nextHas (stepOn 0x3105 (start [(1, 5)])) (retiredAt 0x0204) = true ∧
    nextHas (stepOn 0x3106 (start [(1, 5)])) (retiredAt 0x0202) = true := by decide

/-- 2.2.3, 2.2.4. -/
theorem test_sneImm : nextHas (stepOn 0x4105 (start [(1, 5)])) (retiredAt 0x0202) = true ∧
    nextHas (stepOn 0x4106 (start [(1, 5)])) (retiredAt 0x0204) = true := by decide

/-- 2.2.5, 2.2.6. -/
theorem test_seReg : nextHas (stepOn 0x5120 (start [(1, 9), (2, 9)])) (retiredAt 0x0204) = true ∧
    nextHas (stepOn 0x5120 (start [(1, 9), (2, 8)])) (retiredAt 0x0202) = true := by decide

/-- 2.2.8, 2.2.9. -/
theorem test_sneReg : nextHas (stepOn 0x9120 (start [(1, 1), (2, 2)])) (retiredAt 0x0204) = true ∧
    nextHas (stepOn 0x9110 (start [(1, 1)])) (retiredAt 0x0202) = true := by decide

/-! ### ALU -/

/-- 2.3.1. -/
theorem test_ldImm : nextHas (stepOn 0x6A02 base) (fun t => retiredAt 0x0202 t && t.getV 0xA == 2) = true := by decide

/-- 2.3.2: no flag. -/
theorem test_addImm : nextHas (stepOn 0x7102 (start [(1, 0xFF)]))
    (fun t => t.getV 1 == 0x01 && t.getV 15 == 0) = true := by decide

/-- 2.3.4. -/
theorem test_ldReg : nextHas (stepOn 0x8120 (start [(2, 0x7C)])) (fun t => t.getV 1 == 0x7C) = true := by decide

/-- 2.3.5: `VF` unchanged. -/
theorem test_orReg : nextHas (stepOn 0x8121 (start [(1, 0xF0), (2, 0x0F), (15, 1)]))
    (fun t => t.getV 1 == 0xFF && t.getV 15 == 1) = true := by decide

/-- 2.3.6. -/
theorem test_andReg : nextHas (stepOn 0x8122 (start [(1, 0xCC), (2, 0xAA)])) (fun t => t.getV 1 == 0x88) = true := by
  decide

/-- 2.3.7. -/
theorem test_xorReg : nextHas (stepOn 0x8123 (start [(1, 0xCC), (2, 0xAA)])) (fun t => t.getV 1 == 0x66) = true := by
  decide

/-- 2.3.9. -/
theorem test_addReg : nextHas (stepOn 0x8124 (start [(1, 0xFF), (2, 1)]))
    (fun t => t.getV 1 == 0 && t.getV 15 == 1) = true := by decide

/-- 2.3.11, 2.3.12: `VF` as destination, `VF` as operand. -/
theorem test_addReg_VF :
    nextHas (stepOn 0x8F14 (start [(15, 3), (1, 0xFF)])) (fun t => t.getV 15 == 2) = true ∧
    nextHas (stepOn 0x81F4 (start [(1, 0x10), (15, 0xF5)])) (fun t => t.getV 1 == 5 && t.getV 15 == 1) = true := by
  decide

/-- 2.3.14, 2.3.15. -/
theorem test_subReg :
    nextHas (stepOn 0x8125 (start [(1, 3), (2, 5)])) (fun t => t.getV 1 == 0xFE && t.getV 15 == 0) = true ∧
    nextHas (stepOn 0x8125 (start [(1, 7), (2, 7)])) (fun t => t.getV 1 == 0 && t.getV 15 == 0) = true := by decide

/-- 2.3.16: the result replaces the flag. -/
theorem test_subReg_VF : nextHas (stepOn 0x8F15 (start [(15, 9), (1, 4)])) (fun t => t.getV 15 == 5) = true := by
  decide

/-- 2.3.17: the operand is `V[y]`. -/
theorem test_shr : nextHas (stepOn 0x8126 (start [(2, 5)]))
    (fun t => t.getV 1 == 2 && t.getV 15 == 1 && t.getV 2 == 5) = true := by decide

/-- 2.3.19. -/
theorem test_shr_VF : nextHas (stepOn 0x8F16 (start [(1, 5)])) (fun t => t.getV 15 == 2) = true := by decide

/-- 2.3.21, 2.3.22. -/
theorem test_subn :
    nextHas (stepOn 0x8127 (start [(1, 3), (2, 5)])) (fun t => t.getV 1 == 2 && t.getV 15 == 1) = true ∧
    nextHas (stepOn 0x8127 (start [(1, 5), (2, 3)])) (fun t => t.getV 1 == 0xFE && t.getV 15 == 0) = true := by decide

/-- 2.3.25. -/
theorem test_shl : nextHas (stepOn 0x812E (start [(2, 0x81)]))
    (fun t => t.getV 1 == 2 && t.getV 15 == 1 && t.getV 2 == 0x81) = true := by decide

/-- 2.3.26: the flag is bit 0, not bit 7. -/
theorem test_shl_flag_bit : nextHas (stepOn 0x812E (start [(2, 0x80)]))
    (fun t => t.getV 1 == 0 && t.getV 15 == 0) = true := by decide

/-- 2.3.31. -/
theorem test_rnd : nextHas (stepOn 0xC10F (withPorts base 0 none 0xB7)) (fun t => t.getV 1 == 7) = true := by decide

/-! ### Index register and memory -/

/-- 2.4.1. -/
theorem test_ldI : nextHas (stepOn 0xA300 base) (fun t => retiredAt 0x0202 t && t.i == 0x0300) = true := by decide

/-- 2.4.3, 2.4.4. -/
theorem test_addIVx :
    nextHas (stepOn 0xF21E (start [(2, 1)] 0x0FFF)) (fun t => t.i == 0x1000 && t.getV 15 == 0) = true ∧
    nextHas (stepOn 0xF21E (start [(2, 2)] 0xFFFF)) (fun t => t.i == 0x0001) = true := by decide

/-- 2.4.5, 2.4.7. -/
theorem test_ldFVx : nextHas (stepOn 0xF029 (start [(0, 5)])) (fun t => t.i == 0x0019) = true ∧
    nextHas (stepOn 0xF029 (start [(0, 0xFF)])) (fun t => t.i == 0x04FB) = true := by decide

/-- 2.4.8. -/
theorem test_ldBVx : nextHas (stepOn 0xF033 (start [(0, 0xEA)] 0x0300))
    (fun t => t.bytesAt 0x300 4 == [2, 3, 4, 0] && t.i == 0x0300) = true := by decide

/-- 2.4.11: nothing is stored when a byte is outside. -/
theorem test_ldBVx_outside : nextHas (stepOn 0xF033 (start [(0, 1)] 0x0FFE))
    (fun t => faultedWith 4 0xF033 0x1000 t && t.bytesAt 0xFFE 2 == [0, 0]) = true := by decide

/-- 2.4.12. -/
theorem test_ldMemVx : nextHas (stepOn 0xF255 (start [(0, 0xAA), (1, 0x55), (2, 0xFF)] 0x0300))
    (fun t => t.bytesAt 0x300 4 == [0xAA, 0x55, 0xFF, 0] && t.i == 0x0303) = true := by decide

/-- 2.4.15. -/
theorem test_ldMemVx_outside : nextHas (stepOn 0xFF55 (start [] 0x0FF1)) (faultedWith 4 0xFF55 0x1000) = true := by
  decide

/-- 2.4.16. -/
theorem test_ldVxMem : nextHas (stepOn 0xF165 (withBytes (start [] 0x0301) 0x301 [0x55, 0xFF]))
    (fun t => t.getV 0 == 0x55 && t.getV 1 == 0xFF && t.getV 2 == 0 && t.i == 0x0303) = true := by decide

/-- 2.4.18. -/
theorem test_ldVxMem_outside : nextHas (stepOn 0xF065 (start [(0, 9)] 0x1000))
    (fun t => faultedWith 4 0xF065 0x1000 t && t.getV 0 == 9) = true := by decide

/-! ### Display -/

set_option maxRecDepth 4000 in
/-- 2.5.1. -/
theorem test_cls : nextHas (stepOn 0x00E0 { base with fb := Vector.replicate 32 0xFFFFFFFFFFFFFFFF#64 })
    (fun t => litPixels t == [] && t.needsRepaint) = true := by decide

set_option maxRecDepth 4000 in
/-- 2.5.2: the corner of the screen; bit 7 is the leftmost pixel. -/
theorem test_drw :
    nextHas (stepOn 0xD122 (withBytes (start [(1, 56), (2, 30), (15, 1)] 0x0300) 0x300 [0xC3, 0x81]))
      (fun t => litPixels t == [(56, 30), (57, 30), (62, 30), (63, 30), (56, 31), (63, 31)] && t.getV 15 == 0 &&
        t.needsRepaint) = true := by decide

/-- 2.5.10: the memory range is checked before the rectangle. -/
theorem test_drw_outside : nextHas (stepOn 0xD122 (start [(1, 60)] 0x0FFF)) (faultedWith 4 0xD122 0x1000) = true ∧
    nextHas (stepOn 0xD122 (start [(2, 31)] 0x0300)) (faultedWith 5 0xD122 0x1F00) = true := by decide

/-! ### Timers and keypad -/

/-- 2.6.3. -/
theorem test_ldVxDt : nextHas (stepOn 0xF107 (base.setDT 3)) (fun t => t.getV 1 == 3) = true := by decide

/-- 2.6.1. -/
theorem test_ldDtVx : nextHas (stepOn 0xF015 (start [(0, 3)])) (fun t => t.dt == 3 && t.st == 0) = true := by decide

/-- 2.6.2. -/
theorem test_ldStVx : nextHas (stepOn 0xF418 (start [(4, 0x1E)])) (fun t => t.st == 0x1E && t.dt == 0) = true := by
  decide

/-- 2.6.8, 2.6.9. -/
theorem test_skp : nextHas (stepOn 0xE39E (withPorts (start [(3, 7)]) 0x0080 (some 7) 0)) (retiredAt 0x0204) = true ∧
    nextHas (stepOn 0xE39E (start [(3, 7)])) (retiredAt 0x0202) = true := by decide

/-- 2.6.12. -/
theorem test_skp_outside : nextHas (stepOn 0xE39E (start [(3, 0x10)])) (faultedWith 6 0xE39E 0x0010) = true := by
  decide

/-- 2.6.10, 2.6.11. -/
theorem test_sknp : nextHas (stepOn 0xE3A1 (withPorts (start [(3, 7)]) 0x0080 (some 7) 0)) (retiredAt 0x0202) = true ∧
    nextHas (stepOn 0xE3A1 (withPorts (start [(3, 7)]) 0xFF7F (some 0) 0)) (retiredAt 0x0204) = true := by decide

/-- 2.6.13. -/
theorem test_sknp_outside : nextHas (stepOn 0xE3A1 (start [(3, 0xFF)])) (faultedWith 6 0xE3A1 0x00FF) = true := by
  decide

/-- 2.6.14: the key wait. -/
theorem test_ldVxK_waits : nextHas (stepOn 0xF30A (start [(3, 0x55)]))
    (fun t => t.status == .waiting && t.pc == 0x0200 && t.getV 3 == 0x55 && t.running) = true := by decide

/-- 2.6.16. -/
theorem test_ldVxK : nextHas (stepOn 0xF30A (withPorts (start [(3, 0x55)]) 0x0080 (some 7) 0))
    (fun t => retiredAt 0x0202 t && t.getV 3 == 7) = true := by decide

/-! ### Fetch, halt, reset, the other operations -/

/-- S8. -/
theorem test_unrecognized : nextHas (stepOn 0x5001 base) (faultedWith 1 0x5001 0x0000) = true := by decide

/-- 2.7.3, 2.7.4. -/
theorem test_fetch_outside :
    nextHas (step { base with pc := 0x0FFF }) (fun t => t.status == .faulted && causeCode t.halt.cause == 4 &&
      t.halt.opcode == 0 && t.halt.pc == 0x0FFF && t.halt.info == 0x1000) = true ∧
    nextHas (step { base with pc := 0x1000 }) (fun t => t.halt.pc == 0x1000 && t.halt.info == 0x1000) = true := by
  decide

/-- 2.7.9: from reset, with nothing loaded, the first step is SYS. -/
theorem test_reset_step : nextHas (step State.reset)
    (fun t => t.status == .retired && !t.running && t.pc == 0x0202 && causeCode t.halt.cause == 7 &&
      t.halt.pc == 0x0200) = true := by decide

/-- 2.8: the fontset at reset. -/
theorem test_reset_fontset : State.reset.bytesAt 0x019 5 = [0xF0, 0x80, 0xF0, 0x10, 0xF0] ∧
    State.reset.bytesAt 0x04B 6 = [0xF0, 0x80, 0xF0, 0x80, 0x80, 0x00] := by decide

/-- R62: another value of the parameter `FONTSET` is what `initialize` copies to 0x000..0x04F, and no further. -/
theorem test_fontset_parameter :
    (initializeBlock { base with fontset := Vector.replicate 80 7, mem := [(0, 1)] }).bytesAt 0x04E 3 = [7, 7, 0] := by
  decide

/-- 2.6.4, 2.6.5, 2.6.6. -/
theorem test_tick : (tick { base with dt := 3, st := 1 }).dt = 2 ∧ (tick { base with dt := 3, st := 1 }).st = 0 ∧
    (tick base).dt = 0 ∧ (tick { base with dt := 5, running := false }).dt = 5 := by decide

/-- 2.7.7, 2.7.8. -/
theorem test_quit_ack : (quit { base with pc := 0x0234 }).running = false ∧
    (quit { base with pc := 0x0234 }).halt = { cause := .hostQuit, opcode := 0, pc := 0x0234, info := 0 } ∧
    (repaintAck { base with needsRepaint := true }).needsRepaint = false := by decide

/-- R77: the image of program P1 stands at 0x200. -/
theorem test_load : nextHas (load [0x6A, 0x02, 0x6B, 0x03] base)
    (fun t => t.bytesAt 0x1FF 6 == [0x00, 0x6A, 0x02, 0x6B, 0x03, 0x00]) = true := by decide

/-- R279: a valid `key_first` names a pressed key; the host's duty is checked where it drives the ports. -/
theorem test_drivePorts :
    nextHas (drivePorts { keys := 0x0006, keyFirst := some 1, rnd := 0 } base) (fun t => t.ports.keys == 6) = true ∧
    portsConsistent { keys := 0x0006, keyFirst := some 3, rnd := 0 } = false ∧
    portsConsistent { keys := 0x0006, keyFirst := none, rnd := 0 } = false := by decide

/-! ### Witnesses: states and operands that meet the hypotheses of each statement that has some, clause by clause -/

/-- `s` with the word `w` where the next step fetches it. -/
def placed (w : Nat) (s : State) : State := s.withFetchWord 16 w

/-- A program in memory: CALL 0x210 at 0x200, RET at 0x210 (S5). -/
def callProgram : State := withBytes (withBytes base 0x200 [0x22, 0x10]) 0x210 [0x00, 0xEE]

/-- `base` halted by its SYS instruction, a step having been taken. -/
def halted : State :=
  { base with
    running := false
    pc := 0x0202
    halt := { cause := .sysHalt, opcode := 0, pc := 0x0200, info := 0 }
    loadOpen := false }

/-- A screen with the pixel (0,0) lit, and a sprite byte 0x80 at 0x300. -/
def litCorner : State :=
  { withBytes (start [] 0x0300) 0x300 [0x80] with fb := (Vector.replicate 32 0).set 0 1#64 }

theorem witness_DecodeOfEncode :
    Instr.wellFormed (.sys 0x0E1) = true ∧ Instr.wellFormed (.drw 0xF 0x0 0xF) = true := by decide

theorem witness_EncodeOfDecode : decode 0xDFFF = .ok (.drw 0xF 0xF 0xF) ∧ decode 0x0000 = .ok (.sys 0x000) := by decide

theorem witness_DecodeSelectsOpcodeRow :
    (0x00E1#16 &&& (opcodeRow (.sys 0)).1 = (opcodeRow (.sys 0)).2 ∧ decode 0x00E1 = .ok (.sys 0x0E1)) ∧
    (0x00E0#16 &&& (opcodeRow (.sys 0)).1 = (opcodeRow (.sys 0)).2 ∧ decode 0x00E0 = .ok .cls) := by decide

theorem witness_UnrecognizedWords :
    decode 0x5001 = .error (.unrecognizedOpcode 0x5001) ∧ decode 0x8008 = .error (.unrecognizedOpcode 0x8008) ∧
    decode 0x900F = .error (.unrecognizedOpcode 0x900F) ∧ decode 0xE0A2 = .error (.unrecognizedOpcode 0xE0A2) ∧
    decode 0xF066 = .error (.unrecognizedOpcode 0xF066) ∧ decode 0x800E = .ok (.shl 0 0) := by decide

/-- The last word of memory that can be fetched (vector 2.7.2). -/
theorem witness_StepRunsDecodedInstruction :
    let s := withBytes { base with pc := 0x0FFE } 0xFFE [0x6A, 0x01]
    s.running = true ∧ s.pc.toNat ≤ 0xFFE ∧
      decodeBytes [s.byteAt s.pc.toNat, s.byteAt (s.pc.toNat + 1)] = .ok (.ldImm 0xA 0x01, []) := by
  decide

theorem witness_FetchIsBigEndianAndChecked_inside : ({ base with pc := 0x0FFE } : State).pc.toNat ≤ 0xFFE := by decide

theorem witness_FetchIsBigEndianAndChecked_outside :
    (0xFFE < ({ base with pc := 0x0FFF } : State).pc.toNat ∧ ({ base with pc := 0x0FFF } : State).running = true) ∧
    (0xFFE < ({ base with pc := 0x1000 } : State).pc.toNat ∧ ({ base with pc := 0x1000 } : State).running = true) := by
  decide

theorem witness_UnrecognizedOpcodeHalts :
    (placed 0x5001 base).running = true ∧ fetch (placed 0x5001 base) = .ok 0x5001 ∧
      decode 0x5001 = .error (.unrecognizedOpcode 0x5001) := by decide

theorem witness_HaltedStepIsIdle : halted.running = false := by decide

theorem witness_StatusTellsWhatTheStepDid_idle : ∃ t, step halted = .next t ∧ (t.status == .idle) = true :=
  next_of_nextHas (by decide)

theorem witness_StatusTellsWhatTheStepDid_retired :
    (∃ t, stepOn 0x6A02 base = .next t ∧ (t.status == .retired && t.running) = true) ∧
    (∃ t, stepOn 0x0000 base = .next t ∧ (t.status == .retired && !t.running) = true) :=
  ⟨next_of_nextHas (by decide), next_of_nextHas (by decide)⟩

theorem witness_StatusTellsWhatTheStepDid_waiting :
    ∃ t, stepOn 0xF30A base = .next t ∧ (t.status == .waiting) = true := next_of_nextHas (by decide)

theorem witness_StatusTellsWhatTheStepDid_faulted :
    ∃ t, stepOn 0x5001 base = .next t ∧ (t.status == .faulted) = true := next_of_nextHas (by decide)

theorem witness_FaultsArePrecise_fetched :
    (∃ t, stepOn 0x00EE base = .next t ∧ (t.status == .faulted) = true) ∧ fetch (placed 0x00EE base) = .ok 0x00EE :=
  ⟨next_of_nextHas (by decide), by decide⟩

theorem witness_FaultsArePrecise_not_fetched :
    (∃ t, step { base with pc := 0x0FFF } = .next t ∧ (t.status == .faulted) = true) ∧
      fetch { base with pc := 0x0FFF } = .error 0x1000 := ⟨next_of_nextHas (by decide), by decide⟩

theorem witness_WhatAStepNeverDoes :
    (∃ t, stepOn 0xF015 (start [(0, 3)]) = .next t ∧ (t.dt != base.dt) = true) ∧
    (∃ t, stepOn 0xF018 (start [(0, 3)]) = .next t ∧ (t.st != base.st) = true) ∧
    (∃ t, stepOn 0x6A02 { base with needsRepaint := true } = .next t ∧ (t.running && t.needsRepaint) = true) :=
  ⟨next_of_nextHas (by decide), next_of_nextHas (by decide), next_of_nextHas (by decide)⟩

theorem witness_HaltRecordWrittenOnce :
    (∃ t, operate .tick base = .next t ∧ (base.running == t.running) = true) ∧
    (∃ t, operate .quit halted = .next t ∧ (halted.running == t.running && !halted.running) = true) ∧
    (∃ t, operate .quit base = .next t ∧ (base.running && !t.running) = true) ∧
    Operation.tick ≠ .reset ∧ Operation.quit ≠ .reset :=
  ⟨next_of_nextHas (by decide), next_of_nextHas (by decide), next_of_nextHas (by decide), by decide, by decide⟩

theorem witness_FrameOfRegisters :
    (∃ t, exec (.addReg 1 2) base = .next t ∧ writesRegister (.addReg 1 2) 3 = false) ∧
    (∃ t, exec (.ldVxMem 3) base = .next t ∧ writesRegister (.ldVxMem 3) 4 = false) ∧
    (∃ t, exec (.drw 0 0 1) base = .next t ∧ writesRegister (.drw 0 0 1) 14 = false) :=
  ⟨⟨_, rfl, by decide⟩, ⟨_, rfl, by decide⟩, ⟨_, rfl, by decide⟩⟩

theorem witness_FrameOfIndexAndTimers :
    ∃ t, exec (.ldBVx 0) base = .next t ∧ writesIndex (.ldBVx 0) = false ∧ (∀ x, Instr.ldBVx 0 ≠ .ldDtVx x) ∧
      (∀ x, Instr.ldBVx 0 ≠ .ldStVx x) := ⟨_, rfl, by decide, nofun, nofun⟩

theorem witness_FrameOfCallStack :
    (∃ t, exec (.jp 0) base = .next t ∧ (∀ nnn, Instr.jp 0 ≠ .call nnn) ∧ Instr.jp 0 ≠ .ret) ∧
    (∃ t, exec (.call 0x300) { base with sp := 14 } = .next t ∧ (14 : Nibble) ≠ 14 + 1) :=
  ⟨⟨_, rfl, nofun, nofun⟩, ⟨_, rfl, by decide⟩⟩

theorem witness_FrameOfScreen :
    ∃ t, exec (.ldI 0) base = .next t ∧ Instr.ldI 0 ≠ .cls ∧ ∀ x y n, Instr.ldI 0 ≠ .drw x y n :=
  ⟨_, rfl, nofun, nofun⟩

/-- A store of sixteen bytes up to the end of memory, and the bytes next to it; a store of three; no store. -/
theorem witness_FrameOfMemory :
    (∃ t, exec (.ldMemVx 15) (start [] 0x0FF0) = .next t ∧
      ∀ base n, storeRange (.ldMemVx 15) (start [] 0x0FF0) = some (base, n) → 0xFEF < base ∨ base + n ≤ 0xFEF) ∧
    (∃ t, exec (.ldBVx 0) (start [] 0x0300) = .next t ∧
      ∀ base n, storeRange (.ldBVx 0) (start [] 0x0300) = some (base, n) → 0x303 < base ∨ base + n ≤ 0x303) ∧
    (∃ t, exec .cls base = .next t ∧
      ∀ b n, storeRange .cls base = some (b, n) → 0x300 < b ∨ b + n ≤ 0x300) := by
  refine ⟨⟨_, rfl, fun b n h => ?_⟩, ⟨_, rfl, fun b n h => ?_⟩, ⟨_, rfl, fun b n h => ?_⟩⟩
  · obtain ⟨rfl, rfl⟩ := Prod.mk.inj (Option.some.inj h); decide
  · obtain ⟨rfl, rfl⟩ := Prod.mk.inj (Option.some.inj h); decide
  · cases h

theorem witness_FrameOfRunState :
    ∃ t, exec (.jp 0x300) base = .next t ∧ t.status = .retired ∧ ∀ nnn, Instr.jp 0x300 ≠ .sys nnn :=
  ⟨_, rfl, rfl, nofun⟩

theorem witness_ReturnPopsTheStack :
    ({ base with sp := 1 } : State).sp ≠ 0 ∧ ({ base with sp := 15 } : State).sp ≠ 0 ∧ base.sp = 0 := by decide

theorem witness_SysHaltsTheEngine : (0x0E1 : Addr12) ≠ 0x0E0 ∧ (0x0E1 : Addr12) ≠ 0x0EE := by decide

theorem witness_CallPushesItsAddress :
    base.sp ≠ 15 ∧ ({ base with sp := 14 } : State).sp ≠ 15 ∧ ({ base with sp := 15 } : State).sp = 15 := by decide

theorem witness_CallThenReturnComesBack :
    callProgram.running = true ∧ callProgram.sp ≠ 15 ∧ fetch callProgram = .ok (packNnn 0x2 0x210) ∧
      (0x210 : Addr12).toNat ≤ 0xFFE ∧ callProgram.byteAt 0x210 = 0x00 ∧
      callProgram.byteAt (0x210 + 1) = 0xEE := by decide

theorem witness_InitializeResetsTheBlock : (79 : Nat) < 80 ∧ 0x050 ≤ 0x050 ∧ 0xFFF ≤ 0xFFF := by decide

theorem witness_SkipsCompareBytes : (1 : Nibble) ≠ 0 ∧ (15 : Nibble) ≠ 0 := by decide

theorem witness_RandomByteIsMasked : (withPorts base 0 none 0xB7).ports.rnd = 0xB7 := by decide

theorem witness_StoreDecimalDigits :
    (Memory.wf (start [(0, 0xFF)] 0x0FFD).fontset (start [(0, 0xFF)] 0x0FFD).mem ∧
      (start [(0, 0xFF)] 0x0FFD).i.toNat ≤ 0xFFD) ∧
    0xFFD < (start [] 0x0FFE).i.toNat := by decide

theorem witness_StoreRegisterBlock :
    (Memory.wf (start [] 0x0FF0).fontset (start [] 0x0FF0).mem ∧
      (start [] 0x0FF0).i.toNat + (15 : Nibble).toNat ≤ 0xFFF) ∧
    0xFFF < (start [] 0x0FF1).i.toNat + (15 : Nibble).toNat := by decide

theorem witness_LoadRegisterBlock :
    (start [] 0x0FFF).i.toNat + (0 : Nibble).toNat ≤ 0xFFF ∧ 0xFFF < (start [] 0x1000).i.toNat + (0 : Nibble).toNat := by
  decide

theorem witness_StoreThenLoadRestores :
    Memory.wf (start [(0, 5)] 0x0FF0).fontset (start [(0, 5)] 0x0FF0).mem ∧
      (start [(0, 5)] 0x0FF0).i.toNat + (15 : Nibble).toNat ≤ 0xFFF ∧
      ∃ t, exec (.ldMemVx 15) (start [(0, 5)] 0x0FF0) = .next t := ⟨by decide, by decide, _, rfl⟩

/-- Program P6: F155 at 0x206 stores the word at 0x208. -/
theorem witness_StoresAreSeenByTheNextFetch :
    let s := { start [(0, 0x60), (1, 0x77)] 0x0208 with pc := 0x0206 }
    Memory.wf s.fontset s.mem ∧ s.i.toNat + (1 : Nibble).toNat ≤ 0xFFF ∧ (∃ t, exec (.ldMemVx 1) s = .next t) ∧
      (1 : Nibble).toNat = (0 : Nibble).toNat + 1 ∧ (1 : Nibble).toNat ≤ (1 : Nibble).toNat ∧
      s.pc.toNat + 2 = s.i.toNat + (0 : Nibble).toNat :=
  ⟨by decide, by decide, ⟨_, rfl⟩, by decide, by decide, by decide⟩

/-- The extreme legal rectangles, and the draw with no row. -/
theorem witness_DrawXorsTheSprite_legal :
    drawLegal 1 2 2 (start [(1, 56), (2, 30)] 0x0FFE) ∧ drawLegal 1 2 15 (start [(2, 17)] 0x0300) ∧
    drawLegal 1 2 0 (start [(1, 0xFF), (2, 0xFF)] 0xFFFF) := by unfold drawLegal; decide

theorem witness_DrawXorsTheSprite_collision :
    (∃ row < (1 : Nibble).toNat, ∃ col < 8, memorySpriteBit litCorner row col = true ∧
      pixel litCorner.fb ((litCorner.getV 1).toNat + col) ((litCorner.getV 2).toNat + row) = true) ∧
    ¬∃ row < (1 : Nibble).toNat, ∃ col < 8, memorySpriteBit base row col = true ∧
      pixel base.fb ((base.getV 1).toNat + col) ((base.getV 2).toNat + row) = true := by decide

theorem witness_DrawOutOfRangeFaults :
    (2 : Nibble) ≠ 0 ∧ 0x1000 < (start [] 0x0FFF).i.toNat + (2 : Nibble).toNat ∧
    (let s := start [(1, 57)] 0x0FFE
     s.i.toNat + (2 : Nibble).toNat ≤ 0x1000 ∧ 56 < (s.getV 1).toNat) ∧
    (let s := start [(2, 31)] 0x0300
     s.i.toNat + (2 : Nibble).toNat ≤ 0x1000 ∧ 32 < (s.getV 2).toNat + (2 : Nibble).toNat) := by decide

theorem witness_DrawRefinesTheLoop : drawLegal 1 2 1 litCorner := by unfold drawLegal; decide

theorem witness_DrawTwiceRestores :
    (1 : Nibble) ≠ 15 ∧ (2 : Nibble) ≠ 15 ∧ drawLegal 1 2 1 litCorner ∧ ∃ t, exec (.drw 1 2 1) litCorner = .next t :=
  ⟨by decide, by decide, witness_DrawRefinesTheLoop, _, rfl⟩

theorem witness_DrawAfterClearFindsNoCollision : (∃ t, exec .cls litCorner = .next t) ∧ drawLegal 1 2 1 litCorner :=
  ⟨⟨_, rfl⟩, witness_DrawRefinesTheLoop⟩

theorem witness_KeySkips :
    ((start [(3, 15)]).getV 3).toNat ≤ 15 ∧ 15 < ((start [(3, 16)]).getV 3).toNat := by decide

theorem witness_KeyWait :
    base.ports.keyFirst = none ∧ (withPorts base 0x8000 (some 15) 0).ports.keyFirst = some 15 := by decide

theorem witness_PortsMatterOnlyToTheirReaders :
    (∃ t, exec (.rnd 1 0xFF) base = .next t ∧ readsKeys (.rnd 1 0xFF) = false ∧
      (Ports.mk 0x0001 (some 0) 0).rnd = base.ports.rnd) ∧
    (∃ t, exec (.skp 1) base = .next t ∧ readsRandom (.skp 1) = false ∧ (Ports.mk 0 none 7).keys = base.ports.keys ∧
      (Ports.mk 0 none 7).keyFirst = base.ports.keyFirst) :=
  ⟨⟨_, rfl, by decide, by decide⟩, ⟨_, rfl, by decide, by decide, by decide⟩⟩

theorem witness_TickCountsDown : base.running = true ∧ halted.running = false := by decide

theorem witness_QuitAndRepaintAck : base.running = true ∧ halted.running = false := by decide

/-- The longest image, one byte more, and a load that comes too late. -/
theorem witness_LoadCopiesTheImage :
    (Memory.wf base.fontset base.mem ∧ base.loadOpen = true ∧ (List.replicate 0xE00 (0 : Byte)).length ≤ 0xE00) ∧
    halted.loadOpen = false ∧ 0xE00 < (List.replicate 0xE01 (0 : Byte)).length := by
  refine ⟨⟨by decide, by decide, ?_⟩, by decide, ?_⟩ <;> simp only [List.length_replicate, le_refl, Nat.lt_add_one]

/-- The invariant holds of a running and of a halted state. -/
theorem inv_base_halted : Inv base ∧ Inv halted :=
  ⟨⟨by decide, by decide, by decide, by decide, by unfold haltReported; decide, by decide⟩,
    ⟨by decide, by decide, by decide, by decide, by unfold haltReported; decide, by decide⟩⟩

theorem witness_StepKeepsTheInvariant : Inv base ∧ ∃ t, step base = .next t := ⟨inv_base_halted.1, _, rfl⟩

theorem witness_EveryRunKeepsTheInvariant :
    Inv base ∧ ∃ t, runOperations [.load [0x00, 0x00], .step, .tick, .quit, .repaintAck, .reset] base = .next t :=
  ⟨inv_base_halted.1, _, rfl⟩

theorem witness_DrivenPortsKeepTheHostsDuty :
    (∀ k : Nibble, (0 : BitVec 16).getLsbD k.toNat = false) ∧ (0x8000 : BitVec 16).getLsbD (15 : Nibble).toNat = true ∧
    (∃ k : Nibble, (0x0006 : BitVec 16).getLsbD k.toNat = true) ∧
    (0x0006 : BitVec 16).getLsbD (3 : Nibble).toNat = false :=
  ⟨by decide, by decide, ⟨1, by decide⟩, by decide⟩

theorem witness_FontsetIsAParameter :
    ∃ t, runOperations [.load [0x00, 0x00], .step, .reset] { base with fontset := Vector.replicate 80 7 } = .next t :=
  ⟨_, rfl⟩

/-- A fontset of zeros, and another one whose first byte the memory's list sets to zero. -/
theorem witness_FontsetMattersOnlyThroughMemory :
    let s := { base with fontset := Vector.replicate 80 0 }
    let f := (Vector.replicate 80 0).set 0 1
    Memory.wf s.fontset s.mem ∧ Memory.wf f [(0, 0)] ∧ (∀ a, Memory.read f [(0, 0)] a = s.byteAt a) ∧
      ∃ t, step s = .next t := by
  refine ⟨by decide, by decide, fun a => ?_, _, rfl⟩
  by_cases h : a < 80
  · revert a; decide
  · have h0 : ¬ 0 = a := by omega
    simp [Memory.read, State.byteAt, Memory.unlisted, base, h, h0, State.reset, State.resetWith]

theorem witness_HaltedStateIsFinal :
    halted.running = false ∧ halted.loadOpen = false ∧ Operation.reset ∉ [Operation.step, .tick, .quit, .repaintAck] ∧
      ∃ t, runOperations [.step, .tick, .quit, .repaintAck] halted = .next t :=
  ⟨by decide, by decide, by decide, _, rfl⟩

end Sys2Proof.Tests
end

section
/-! SUPPORT. What a step, one operation and a run of operations leave unchanged, each said once. -/

namespace Sys2Proof.Machine

/-- Whatever way an instruction ends, the ports, their sample count, the load flag and the parameter stay. -/
theorem Ending.untouched {i : Instr} {s t : State} (h : Ending i s t) : Untouched s t := by
  cases h with
  | faulted c info hc h => exact h ▸ ⟨rfl, rfl, rfl, rfl⟩
  | waiting x hi hk h => exact h ▸ ⟨rfl, rfl, rfl, rfl⟩
  | halted nnn hi h => exact h ▸ ⟨rfl, rfl, rfl, rfl⟩
  | retired hs hr hh hu => exact hu

/-- An instruction changes neither the ports, nor their sample count, nor the load flag, nor the parameter. -/
theorem exec_untouched {i : Instr} {s t : State} (h : exec i s = .next t) : Untouched s t :=
  (exec_ending h).untouched

/-- A step changes none of the fields of `Untouched` but by the environment's next sample (`afterStep`). -/
theorem step_eq_afterStep_untouched {s t : State} (h : step s = .next t) :
    ∃ u, Untouched s u ∧ t = u.afterStep := by
  cases step_ending h with
  | idle hr h => exact ⟨s.endWith .idle, ⟨rfl, rfl, rfl, rfl⟩, h⟩
  | fetchFault hr a hf h => exact ⟨s.raise .addressOutOfRange 0 a, ⟨rfl, rfl, rfl, rfl⟩, h⟩
  | unrecognized hr w hf e hd h => exact ⟨s.raise .unrecognizedOpcode w 0, ⟨rfl, rfl, rfl, rfl⟩, h⟩
  | executed hr w hf i hd u he h => exact ⟨u, exec_untouched he, h⟩

/-- A step keeps the parameter `FONTSET` (R8). -/
theorem step_fontset {s t : State} (h : step s = .next t) : t.fontset = s.fontset := by
  obtain ⟨u, hu, rfl⟩ := step_eq_afterStep_untouched h
  exact hu.fontset

@[simp] theorem initializeBlock_fontset (s : State) : (initializeBlock s).fontset = s.fontset := rfl
@[simp] theorem repaintAck_fontset (s : State) : (repaintAck s).fontset = s.fontset := rfl

@[simp] theorem tick_fontset (s : State) : (tick s).fontset = s.fontset := by
  unfold tick
  split <;> rfl

@[simp] theorem quit_fontset (s : State) : (quit s).fontset = s.fontset := by
  unfold quit
  split <;> rfl

/-- When `load` answers a next state: the load flag was open, the image fits, and it was copied (R77, R283). -/
theorem load_eq_next {image : List Byte} {s t : State} :
    load image s = .next t ↔ s.loadOpen = true ∧ image.length ≤ Config.maxImage ∧
      t = { s.storeBytes Config.programBase image with loadOpen := false } := by
  unfold load
  split <;> rename_i hopen
  · split <;> rename_i hlen <;> simp [hopen, hlen, eq_comm]
  · simp [hopen]

/-- When driving the ports answers a next state: the host kept its duty (R279), and only the ports changed. -/
theorem drivePorts_eq_next {p : Ports} {s t : State} :
    drivePorts p s = .next t ↔ portsConsistent p = true ∧ t = { s with ports := p } := by
  unfold drivePorts
  split <;> rename_i hp <;> simp [hp, eq_comm]

/-- One operation or host action keeps the parameter `FONTSET` (R8, R62). -/
theorem operate_fontset {op : Operation} {s t : State} (h : operate op s = .next t) : t.fontset = s.fontset := by
  cases op with
  | reset => exact Host.Outcome.next.inj h ▸ initializeBlock_fontset s
  | load image =>
    obtain ⟨-, -, rfl⟩ := load_eq_next.1 h
    rfl
  | step => exact step_fontset h
  | tick => exact Host.Outcome.next.inj h ▸ tick_fontset s
  | repaintAck => exact Host.Outcome.next.inj h ▸ repaintAck_fontset s
  | quit => exact Host.Outcome.next.inj h ▸ quit_fontset s
  | drivePorts p =>
    obtain ⟨-, rfl⟩ := drivePorts_eq_next.1 h
    rfl

/-- No operations: the run answers the state it starts from. -/
theorem runOperations_nil_eq_next {s t : State} : runOperations [] s = .next t ↔ t = s := by
  simp [runOperations, eq_comm]

/-- A run answers a next state when its first operation does and the rest does from there. -/
theorem runOperations_cons_eq_next {op : Operation} {ops : List Operation} {s t : State} :
    runOperations (op :: ops) s = .next t ↔ ∃ u, operate op s = .next u ∧ runOperations ops u = .next t := by
  rw [runOperations]
  cases operate op s <;> simp

/-- The induction over runs: what each operation of the list keeps, the run keeps. -/
theorem runOperations_keeps {P : State → Prop} {ops : List Operation} {s t : State}
    (keeps : ∀ op ∈ ops, ∀ u v, operate op u = .next v → P u → P v)
    (run : runOperations ops s = .next t) (start : P s) : P t := by
  induction ops generalizing s with
  | nil => exact runOperations_nil_eq_next.1 run ▸ start
  | cons op ops ih =>
    obtain ⟨u, first, rest⟩ := runOperations_cons_eq_next.1 run
    exact ih (fun o ho => keeps o (List.mem_cons_of_mem op ho)) rest (keeps op List.mem_cons_self s u first start)

end Sys2Proof.Machine
end

section
/-! PROOF. The statements of 00_scope.md. -/

namespace Sys2Proof

open Sys2Proof.Machine

/-- Settles O54: each operation keeps the parameter, so a run of them does. -/
theorem fontsetIsAParameter : Obligations.FontsetIsAParameter := by
  intro ops s t run
  exact runOperations_keeps (P := fun u => u.fontset = s.fontset)
    (fun _ _ _ _ h hu => (operate_fontset h).trans hu) run rfl

end Sys2Proof
end

section
/-! SUPPORT. What an instruction can do, one case per kind of effect; then what it changes of each element of the state. -/

namespace Sys2Proof

open Sys2Proof.Machine

/-- The effects of an instruction (R120 to R128): `Ending` with each retirement told apart by what it
writes, as the frames and the invariant need it. -/
inductive Effect (i : Instr) (s t : State) : Prop where
  /-- A fault (R269). -/
  | faulted (c : HaltCause) (info : Word) (hc : c ≠ .none ∧ c ≠ .sysHalt) (h : t = s.raise c (encode i) info)
  /-- A key wait (R245). -/
  | waited (h : t = s.endWith .waiting)
  /-- SYS (R141). -/
  | halted (nnn : Addr12) (hi : i = .sys nnn) (h : t = (s.haltWith .sysHalt (encode i) 0).nextPC)
  /-- JP and JP V0 (R142, R144): 0xFF + 0xFFF is the largest target. -/
  | jumped (target : Word) (hb : target.toNat ≤ 0x10FE) (h : t = s.retireAt target)
  /-- A skip (R126). -/
  | skipped (c : Bool) (h : t = s.skipWhen c)
  /-- CALL below the stack's end (R143). -/
  | called (nnn : Addr12) (hi : i = .call nnn) (hsp : s.sp ≠ 15)
      (h : t = ((s.setSP (s.sp + 1)).setSlot (s.sp + 1) s.pc).retireAt (zext16 nnn))
  /-- RET from a call (R140). -/
  | returned (hi : i = .ret) (hsp : s.sp ≠ 0) (h : t = (s.setSP (s.sp - 1)).retireAt (s.getSlot s.sp + 2))
  /-- One register (R22). -/
  | wroteV (x : Nibble) (b : Byte) (hx : writesRegister i x = true) (h : t = (s.setV x b).nextPC)
  /-- A flag and a result (R171). -/
  | wroteFlagAndV (f : Byte) (x : Nibble) (b : Byte) (hf : writesRegister i 15 = true) (hx : writesRegister i x = true)
      (h : t = (s.setFlagThenV f x b).nextPC)
  /-- `I` alone (R200 to R202). -/
  | wroteI (w : Word) (hi : writesIndex i = true) (h : t = (s.setI w).nextPC)
  /-- `DT` (R241). -/
  | wroteDT (x : Nibble) (hi : i = .ldDtVx x) (h : t = (s.setDT (s.getV x)).nextPC)
  /-- `ST` (R242). -/
  | wroteST (x : Nibble) (hi : i = .ldStVx x) (h : t = (s.setST (s.getV x)).nextPC)
  /-- CLS (R220). -/
  | cleared (hi : i = .cls) (h : t = (s.setScreen blankScreen).nextPC)
  /-- A DRW inside memory and grid (R221). -/
  | drew (x y n : Nibble) (hi : i = .drw x y n) (fb : Vector (BitVec 64) 32) (flag : Byte)
      (h : t = ((s.setScreen fb).setV 15 flag).nextPC)
  /-- Fx33 inside memory (R203). -/
  | storedDigits (x : Nibble) (hi : i = .ldBVx x) (hr : s.i.toNat + 3 ≤ Config.memSize)
      (h : t = (s.storeBytes s.i.toNat (decimalDigits (s.getV x))).nextPC)
  /-- Fx55 inside memory (R204). -/
  | storedBlock (x : Nibble) (hi : i = .ldMemVx x) (hr : s.i.toNat + blockLength x ≤ Config.memSize)
      (h : t = ((s.storeBytes s.i.toNat (registerBlock s x)).setI (advanceIndex s.i x)).nextPC)
  /-- Fx65 inside memory (R205). -/
  | loadedBlock (x : Nibble) (hi : i = .ldVxMem x) (hr : s.i.toNat + blockLength x ≤ Config.memSize)
      (h : t = ((s.setRegisters (loadBlock s s.i.toNat x)).setI (advanceIndex s.i x)).nextPC)

/-- A 12-bit address as a number (R93). -/
theorem toNat_zext16_lt (nnn : Addr12) : (zext16 nnn).toNat < 0x1000 := by
  have := nnn.isLt
  simp only [zext16, BitVec.toNat_setWidth]
  omega

/-- A target of JP or CALL is within `PC`'s bound (R26). -/
theorem toNat_zext16_le (nnn : Addr12) : (zext16 nnn).toNat ≤ 0x10FE :=
  Nat.le_of_lt (Nat.lt_of_lt_of_le (toNat_zext16_lt nnn) (by decide))

/-- The largest target of JP V0 (R26, R144). -/
theorem toNat_zextByte_add_zext16_le (b : Byte) (nnn : Addr12) : (zextByte b + zext16 nnn).toNat ≤ 0x10FE := by
  have hb := b.isLt
  have hn := toNat_zext16_lt nnn
  simp only [zextByte, BitVec.toNat_add, BitVec.toNat_setWidth]
  omega

/-- A checked range that is not empty lies in memory (R63). -/
theorem le_memSize_of_firstOutside {base n : Nat} (hn : n ≠ 0) (h : firstOutside base n = none) :
    base + n ≤ Config.memSize :=
  (firstOutside_eq_none.1 h).resolve_left hn

/-- Every instruction has one of the effects. -/
theorem exec_effect {i : Instr} {s t : State} (h : exec i s = .next t) : Effect i s t := by
  cases i with
  | cls => exact .cleared rfl (Host.Outcome.next.inj h).symm
  | ret =>
    simp only [exec, execRet, Host.Outcome.next.injEq] at h
    split at h <;> rename_i hsp
    · exact .faulted .stackUnderflow 0 (by simp) h.symm
    · exact .returned rfl hsp h.symm
  | sys nnn => exact .halted nnn rfl (Host.Outcome.next.inj h).symm
  | jp nnn => exact .jumped _ (toNat_zext16_le nnn) (Host.Outcome.next.inj h).symm
  | jpV0 nnn => exact .jumped _ (toNat_zextByte_add_zext16_le _ nnn) (Host.Outcome.next.inj h).symm
  | call nnn =>
    simp only [exec, execCall, Host.Outcome.next.injEq] at h
    split at h <;> rename_i hsp
    · exact .faulted .stackOverflow 15 (by simp) h.symm
    · exact .called nnn rfl hsp h.symm
  | seImm x kk | sneImm x kk | seReg x y | sneReg x y => exact .skipped _ (Host.Outcome.next.inj h).symm
  | skp x | sknp x =>
    simp only [exec, execSkp, execSknp, Host.Outcome.next.injEq] at h
    split at h
    · exact .faulted .keyOutOfRange _ (by simp) h.symm
    · exact .skipped _ h.symm
  | ldImm x _ | addImm x _ | ldReg x _ | orReg x _ | andReg x _ | xorReg x _ | rnd x _ | ldVxDt x =>
    exact .wroteV x _ (beq_self_eq_true x) (Host.Outcome.next.inj h).symm
  | ldVxK x =>
    simp only [exec, execLdVxK, Host.Outcome.next.injEq] at h
    split at h
    · exact .waited h.symm
    · exact .wroteV x _ (beq_self_eq_true x) h.symm
  | addReg x _ | subReg x _ | shr x _ | subn x _ | shl x _ =>
    exact .wroteFlagAndV _ x _ (by simp [writesRegister]) (by simp [writesRegister]) (Host.Outcome.next.inj h).symm
  | ldI _ | addIVx _ | ldFVx _ => exact .wroteI _ rfl (Host.Outcome.next.inj h).symm
  | ldDtVx x => exact .wroteDT x rfl (Host.Outcome.next.inj h).symm
  | ldStVx x => exact .wroteST x rfl (Host.Outcome.next.inj h).symm
  | drw x y n =>
    simp only [exec, execDrw, Host.Outcome.next.injEq] at h
    split at h
    · exact .faulted .addressOutOfRange _ (by simp) h.symm
    · split at h
      · exact .faulted .framebufferOutOfRange _ (by simp) h.symm
      · exact .drew x y n rfl _ _ h.symm
  | ldBVx x =>
    simp only [exec, execLdBVx, Host.Outcome.next.injEq] at h
    split at h <;> rename_i hr
    · exact .faulted .addressOutOfRange _ (by simp) h.symm
    · exact .storedDigits x rfl (le_memSize_of_firstOutside (by simp) hr) h.symm
  | ldMemVx x =>
    simp only [exec, execLdMemVx, Host.Outcome.next.injEq] at h
    split at h <;> rename_i hr
    · exact .faulted .addressOutOfRange _ (by simp) h.symm
    · exact .storedBlock x rfl (le_memSize_of_firstOutside (by simp [blockLength]) hr) h.symm
  | ldVxMem x =>
    simp only [exec, execLdVxMem, Host.Outcome.next.injEq] at h
    split at h <;> rename_i hr
    · exact .faulted .addressOutOfRange _ (by simp) h.symm
    · exact .loadedBlock x rfl (le_memSize_of_firstOutside (by simp [blockLength]) hr) h.symm

/-- Two registers of which an instruction may write one only are different. -/
theorem ne_of_writesRegister {i : Instr} {r x : Nibble} (hr : writesRegister i r = false)
    (hx : writesRegister i x = true) : r ≠ x := by
  rintro rfl
  exact Bool.false_ne_true (hr.symm.trans hx)

/-- A register that R22's table does not list keeps its value. -/
theorem Effect.getV_eq {i : Instr} {s t : State} (e : Effect i s t) {r : Nibble} (hr : writesRegister i r = false) :
    t.getV r = s.getV r := by
  cases e with
  | wroteV x b hx h => simp [h, ne_of_writesRegister hr hx]
  | wroteFlagAndV f x b hf hx h =>
    rw [h, getV_nextPC, getV_setFlagThenV, if_neg (ne_of_writesRegister hr hx), if_neg (ne_of_writesRegister hr hf)]
  | drew x y n hi fb flag h =>
    have hf : r ≠ 15 := ne_of_writesRegister hr (by simp [hi, writesRegister])
    rw [h, getV_nextPC, getV_setV, if_neg hf, getV_setScreen]
  | loadedBlock x hi hrange h =>
    have habove : ¬ r.toNat ≤ x.toNat := by simpa [hi, writesRegister] using hr
    simp [h, getV_setRegisters, getV_loadBlock, habove]
  | _ => subst t; simp

/-- Who changes `I` is in R24's list. -/
theorem Effect.i_eq {i : Instr} {s t : State} (e : Effect i s t) (hi : writesIndex i = false) : t.i = s.i := by
  cases e with
  | wroteI w hw h => exact absurd (hi.symm.trans hw) Bool.false_ne_true
  | storedBlock x hx hr h | loadedBlock x hx hr h =>
    subst hx
    simp [writesIndex] at hi
  | _ => subst t; simp

/-- Only Fx15 changes `DT` (R27). -/
theorem Effect.dt_eq {i : Instr} {s t : State} (e : Effect i s t) (hi : ∀ x, i ≠ .ldDtVx x) : t.dt = s.dt := by
  cases e with
  | wroteDT x hx h => exact absurd hx (hi x)
  | _ => subst t; simp

/-- Only Fx18 changes `ST` (R27). -/
theorem Effect.st_eq {i : Instr} {s t : State} (e : Effect i s t) (hi : ∀ x, i ≠ .ldStVx x) : t.st = s.st := by
  cases e with
  | wroteST x hx h => exact absurd hx (hi x)
  | _ => subst t; simp

/-- Only CLS and DRW change the screen or ask for a repaint (R31, R33). -/
theorem Effect.screen_eq {i : Instr} {s t : State} (e : Effect i s t) (hcls : i ≠ .cls)
    (hdrw : ∀ x y n, i ≠ .drw x y n) : t.fb = s.fb ∧ t.needsRepaint = s.needsRepaint := by
  cases e with
  | cleared hi h => exact absurd hi hcls
  | drew x y n hi fb flag h => exact absurd hi (hdrw x y n)
  | _ => subst t; simp

/-- An instruction that retires and is not SYS keeps the run state and the halt record (R34, R35). -/
theorem Ending.runState_eq {i : Instr} {s t : State} (e : Ending i s t) (hs : t.status = .retired)
    (hi : ∀ nnn, i ≠ .sys nnn) : t.running = s.running ∧ t.halt = s.halt := by
  cases e with
  | faulted c info hc h => simp [h] at hs
  | waiting x hx hk h => simp [h] at hs
  | halted nnn hsys h => exact absurd hsys (hi nnn)
  | retired _ hr hh _ => exact ⟨hr, hh⟩

end Sys2Proof
end

section
/-! SUPPORT. The invariant, update by update, then through an instruction, a step and an operation. -/

namespace Sys2Proof

open Sys2Proof.Machine

/-- Up to two words past the last address where a word can stand is within `PC`'s bound (R26, R64). -/
theorem toNat_add_le {a k : Word} (ha : a.toNat ≤ 0xFFE) (hk : k.toNat ≤ 4) : (a + k).toNat ≤ 0x10FE := by
  rw [BitVec.toNat_add]
  omega

namespace Inv

variable {s : State} (hs : Inv s)
include hs

/-! Updates of elements the invariant does not speak of. -/

theorem setV (x : Nibble) (b : Byte) : Inv (s.setV x b) := { hs with }
theorem setFlagThenV (f : Byte) (x : Nibble) (b : Byte) : Inv (s.setFlagThenV f x b) := { hs with }
theorem setI (w : Word) : Inv (s.setI w) := { hs with }
theorem setSP (k : Nibble) : Inv (s.setSP k) := { hs with }
theorem setRegisters (v : Vector Byte 16) : Inv (s.setRegisters v) := { hs with }
theorem setScreen (fb : Vector (BitVec 64) 32) : Inv (s.setScreen fb) := { hs with }
theorem setDT (b : Byte) : Inv (s.setDT b) := { hs with }
theorem setST (b : Byte) : Inv (s.setST b) := { hs with }
theorem endWith (q : Status) : Inv (s.endWith q) := { hs with }
theorem repaintAck : Inv (repaintAck s) := { hs with }

/-! Updates of elements it speaks of. -/

/-- A slot other than slot 0 takes the address of a fetched word (R28). -/
theorem setSlot {k : Nibble} {w : Word} (hk : k ≠ 0) (hw : w.toNat ≤ 0xFFE) : Inv (s.setSlot k w) :=
  { hs with
    slotBound := fun r => by
      rw [getSlot_setSlot]
      split
      · exact hw
      · exact hs.slotBound r
    slotZero := by rw [getSlot_setSlot, if_neg hk.symm, hs.slotZero] }

/-- A store inside memory (R30). -/
theorem storeBytes {base : Nat} {bytes : List Byte} (hr : base + bytes.length ≤ Config.memSize) :
    Inv (s.storeBytes base bytes) :=
  { hs with memory := wf_writeBytes hs.memory base bytes hr }

/-- A retirement, while the engine runs, to a place within the bound (R26). -/
theorem retireAt (hr : s.running = true) {w : Word} (hw : w.toNat ≤ 0x10FE) : Inv (s.retireAt w) :=
  { hs with
    pcBound := hw
    report := by simpa [haltReported, hr] using hs.report }

/-- A halt at `PC`, for every cause but SYS (R35, R269). -/
theorem haltWith {c : HaltCause} (hc : c ≠ .none ∧ c ≠ .sysHalt) (opcode info : Word) :
    Inv (s.haltWith c opcode info) :=
  { hs with report := by simp [haltReported, hc.1, hc.2] }

/-- A fault (R269). -/
theorem raise {c : HaltCause} (hc : c ≠ .none ∧ c ≠ .sysHalt) (opcode info : Word) : Inv (s.raise c opcode info) :=
  (hs.haltWith hc opcode info).endWith .faulted

/-- A word further than where a word was fetched. -/
theorem nextPC (hr : s.running = true) (hpc : s.pc.toNat ≤ 0xFFE) : Inv s.nextPC :=
  hs.retireAt hr (toNat_add_le hpc (by decide))

/-- One or two words further than where a word was fetched. -/
theorem skipWhen (hr : s.running = true) (hpc : s.pc.toNat ≤ 0xFFE) (c : Bool) : Inv (s.skipWhen c) := by
  cases c with
  | false => exact hs.nextPC hr hpc
  | true => exact hs.retireAt hr (toNat_add_le hpc (by decide))

/-- SYS reports the word before `PC` (R141). -/
theorem sysHalt (hpc : s.pc.toNat ≤ 0xFFE) (opcode : Word) : Inv (s.haltWith .sysHalt opcode 0).nextPC :=
  { hs with
    pcBound := toNat_add_le hpc (by decide)
    report := by simp [haltReported] }

/-- The free sample of the ports keeps the host's duty (R279). -/
theorem afterStep : Inv s.afterStep := { hs with portsAgree := sampledPorts_consistent s.sample }

/-- The counters are not the invariant's (R276). -/
theorem tick : Inv (tick s) := by
  unfold Machine.tick
  split
  · exact { hs with }
  · exact hs

/-- The host's quit reports `PC` (R268). -/
theorem quit : Inv (quit s) := by
  unfold Machine.quit
  split
  · exact hs.haltWith (by simp) 0 0
  · exact hs

end Inv

/-- The reset state, for every `FONTSET` (R38, R300). -/
theorem inv_resetWith (f : Fontset) : Inv (State.resetWith f) where
  memory := wf_resetWith f
  pcBound := by simp [State.resetWith]
  slotBound k := by simp [State.getSlot, State.resetWith]
  slotZero := by simp [State.getSlot, State.resetWith]
  report := by simp [haltReported, State.resetWith]
  portsAgree := sampledPorts_consistent 0

/-- A fetched word lies at `PC` and the byte after it (R64). -/
theorem pc_le_of_fetch {s : State} {w : Word} (h : fetch s = .ok w) : s.pc.toNat ≤ 0xFFE := by
  unfold fetch at h
  split at h
  · cases h
  · rename_i hin
    have hpc : s.pc.toNat + 2 ≤ 0x1000 := le_memSize_of_firstOutside (by simp) hin
    omega

/-- An executed instruction keeps the invariant, from the address of a fetched word. -/
theorem Effect.keeps_inv {i : Instr} {s t : State} (e : Effect i s t) (hs : Inv s) (hr : s.running = true)
    (hpc : s.pc.toNat ≤ 0xFFE) : Inv t := by
  cases e with
  | faulted c info hc h => exact h ▸ hs.raise hc _ info
  | waited h => exact h ▸ hs.endWith .waiting
  | halted nnn hi h => exact h ▸ hs.sysHalt hpc _
  | jumped target hb h => exact h ▸ hs.retireAt hr hb
  | skipped c h => exact h ▸ hs.skipWhen hr hpc c
  | called nnn hi hsp h =>
    have hk : s.sp + 1 ≠ 0 := by bv_omega
    rw [h]
    exact ((hs.setSP (s.sp + 1)).setSlot hk hpc).retireAt hr (toNat_zext16_le nnn)
  | returned hi hsp h =>
    have htarget : (s.getSlot s.sp + 2).toNat ≤ 0x10FE := toNat_add_le (hs.slotBound s.sp) (by decide)
    rw [h]
    exact (hs.setSP (s.sp - 1)).retireAt hr htarget
  | wroteV x b hx h => exact h ▸ (hs.setV x b).nextPC hr hpc
  | wroteFlagAndV f x b hf hx h => exact h ▸ (hs.setFlagThenV f x b).nextPC hr hpc
  | wroteI w hi h => exact h ▸ (hs.setI w).nextPC hr hpc
  | wroteDT x hi h => exact h ▸ (hs.setDT _).nextPC hr hpc
  | wroteST x hi h => exact h ▸ (hs.setST _).nextPC hr hpc
  | cleared hi h => exact h ▸ (hs.setScreen _).nextPC hr hpc
  | drew x y n hi fb flag h => exact h ▸ ((hs.setScreen fb).setV 15 flag).nextPC hr hpc
  | storedDigits x hi hrange h => exact h ▸ (hs.storeBytes (by exact hrange)).nextPC hr hpc
  | storedBlock x hi hrange h =>
    exact h ▸ ((hs.storeBytes (by rwa [length_registerBlock])).setI _).nextPC hr hpc
  | loadedBlock x hi hrange h => exact h ▸ ((hs.setRegisters _).setI _).nextPC hr hpc

/-- Each way a step ends keeps the invariant. -/
theorem step_keeps_inv {s t : State} (hs : Inv s) (h : step s = .next t) : Inv t := by
  cases step_ending h with
  | idle hr h => exact h ▸ (hs.endWith .idle).afterStep
  | fetchFault hr a hf h => exact h ▸ (hs.raise (by simp) 0 a).afterStep
  | unrecognized hr w hf e hd h => exact h ▸ (hs.raise (by simp) w 0).afterStep
  | executed hr w hf i hd u he h =>
    exact h ▸ ((exec_effect he).keeps_inv hs hr (pc_le_of_fetch hf)).afterStep

/-- Each operation and host action keeps the invariant. -/
theorem operate_keeps_inv {op : Operation} {s t : State} (h : operate op s = .next t) (hs : Inv s) : Inv t := by
  cases op with
  | reset =>
    exact Host.Outcome.next.inj h ▸ { inv_resetWith s.fontset with portsAgree := hs.portsAgree }
  | load image =>
    obtain ⟨-, hlen, rfl⟩ := load_eq_next.1 h
    have hfits : Config.programBase + image.length ≤ Config.memSize := Nat.add_le_add_left hlen Config.programBase
    exact { hs.storeBytes hfits with }
  | step => exact step_keeps_inv hs h
  | tick => exact Host.Outcome.next.inj h ▸ hs.tick
  | repaintAck => exact Host.Outcome.next.inj h ▸ hs.repaintAck
  | quit => exact Host.Outcome.next.inj h ▸ hs.quit
  | drivePorts p =>
    obtain ⟨hp, rfl⟩ := drivePorts_eq_next.1 h
    exact { hs with portsAgree := hp }

end Sys2Proof
end

section
/-! SUPPORT. A halted machine, operation by operation (R39, R273). -/

namespace Sys2Proof

open Sys2Proof.Machine

/-- `t` is `s` but for the outputs and inputs a halted machine still changes: `needs_repaint`, and the model's status, ports
and sample count. -/
def SameHalted (s t : State) : Prop :=
  ∃ n q p k, t = { s with needsRepaint := n, status := q, ports := p, sample := k }

theorem SameHalted.refl (s : State) : SameHalted s s := ⟨_, _, _, _, rfl⟩

theorem SameHalted.trans {s t u : State} : SameHalted s t → SameHalted t u → SameHalted s u := by
  rintro ⟨_, _, _, _, rfl⟩ ⟨n, q, p, k, rfl⟩
  exact ⟨n, q, p, k, rfl⟩

theorem SameHalted.running_eq {s t : State} : SameHalted s t → t.running = s.running := by
  rintro ⟨_, _, _, _, rfl⟩
  rfl

theorem SameHalted.loadOpen_eq {s t : State} : SameHalted s t → t.loadOpen = s.loadOpen := by
  rintro ⟨_, _, _, _, rfl⟩
  rfl

/-- A halted engine's step is Idle: beside the status only the ports' next sample (R121). -/
theorem step_of_halted {s t : State} (hr : s.running = false) (h : step s = .next t) :
    t = (s.endWith .idle).afterStep := by
  cases step_ending h with
  | idle _ h => exact h
  | _ hrun => simp [hr] at hrun

/-- Whatever comes, other than a reset, a halted machine with `load` closed stays as it is (R273). -/
theorem operate_of_halted {op : Operation} {s t : State} (hr : s.running = false) (hl : s.loadOpen = false)
    (hop : op ≠ .reset) (h : operate op s = .next t) : SameHalted s t := by
  cases op with
  | reset => exact absurd rfl hop
  | load image => simp [load_eq_next.1 h] at hl
  | step => exact ⟨_, _, _, _, by rw [step_of_halted hr h, State.afterStep, ← hl]; rfl⟩
  | tick =>
    have ht : t = s := by simpa [operate, tick, hr, eq_comm] using h
    exact ht ▸ .refl s
  | repaintAck => exact ⟨_, _, _, _, (Host.Outcome.next.inj h).symm⟩
  | quit =>
    have ht : t = s := by simpa [operate, quit, hr, eq_comm] using h
    exact ht ▸ .refl s
  | drivePorts p =>
    obtain ⟨-, rfl⟩ := drivePorts_eq_next.1 h
    exact ⟨_, _, _, _, rfl⟩

end Sys2Proof
end

section
/-! PROOF. The statements of 10_state.md. -/

namespace Sys2Proof

open Sys2Proof.Machine

/-- Settles O57, through the ways a step ends and the effects of an instruction. -/
theorem stepKeepsTheInvariant : Obligations.StepKeepsTheInvariant :=
  fun _ _ hs h => step_keeps_inv hs h

/-- Settles O58, by induction over the run: each operation keeps the invariant. -/
theorem everyRunKeepsTheInvariant : Obligations.EveryRunKeepsTheInvariant :=
  fun _ _ _ hs run => runOperations_keeps (fun _ _ _ _ h => operate_keeps_inv h) run hs

/-- Settles O15: no effect writes a register that R22's table does not list. -/
theorem frameOfRegisters : Obligations.FrameOfRegisters :=
  fun _ _ _ _ h hr => (exec_effect h).getV_eq hr

/-- Settles O16: no effect but the ones of the listed instructions writes `I`, `DT` or `ST`. -/
theorem frameOfIndexAndTimers : Obligations.FrameOfIndexAndTimers := by
  intro i s t h
  have e := exec_effect h
  exact ⟨e.i_eq, e.dt_eq, e.st_eq⟩

/-- Settles O18: the two effects that write the screen are CLS's and DRW's. -/
theorem frameOfScreen : Obligations.FrameOfScreen :=
  fun _ _ _ h hcls hdrw => (exec_effect h).screen_eq hcls hdrw

/-- Settles O20: by the endings of an instruction. -/
theorem frameOfRunState : Obligations.FrameOfRunState := by
  intro i s t h
  have hu := exec_untouched h
  exact ⟨Ending.runState_eq (exec_ending h), hu.ports, hu.fontset⟩

/-- Settles O60, by induction over the run: it stays the same halted machine, so the next operation finds it halted. -/
theorem haltedStateIsFinal : Obligations.HaltedStateIsFinal := by
  intro ops s t hr hl hreset run
  have same : SameHalted s t := by
    refine runOperations_keeps (fun op hop u v h hu => ?_) run (.refl s)
    have hne : op ≠ .reset := fun e => hreset (e ▸ hop)
    exact hu.trans (operate_of_halted (hu.running_eq.trans hr) (hu.loadOpen_eq.trans hl) hne h)
  obtain ⟨_, _, _, _, rfl⟩ := same
  rfl

/-- Settles O56: the default `FONTSET` is one of them. -/
theorem resetMeetsTheInvariant : Obligations.ResetMeetsTheInvariant :=
  ⟨inv_resetWith, inv_resetWith defaultFontset⟩

end Sys2Proof
end

section
/-! SUPPORT. A step, forward: the fetch by the place of `PC`, then one equation per ending of the step (R64, R120). -/

namespace Sys2Proof.Machine

/-- A word from its two bytes, as a number (R64). -/
theorem toNat_append_byte (hi lo : Byte) : (hi ++ lo).toNat = hi.toNat * 256 + lo.toNat := by
  rw [BitVec.toNat_append, ← Nat.shiftLeft_add_eq_or_of_lt lo.isLt, Nat.shiftLeft_eq]

/-- The fetch where a word can stand (R64). -/
theorem fetch_of_pc_le {s : State} (hpc : s.pc.toNat ≤ 0xFFE) :
    fetch s = .ok (s.byteAt s.pc.toNat ++ s.byteAt (s.pc.toNat + 1)) := by
  have hin : firstOutside s.pc.toNat 2 = none := firstOutside_eq_none.2 (by omega)
  simp only [fetch, hin]

/-- The fetch where no word can stand: it reports the first address above 0xFFF (R64, R264). -/
theorem fetch_of_lt_pc {s : State} (hpc : 0xFFE < s.pc.toNat) :
    fetch s = .error (if s.pc.toNat = 0xFFF then 0x1000 else s.pc) := by
  have hout : firstOutside s.pc.toNat 2 = some (BitVec.ofNat 16 (max s.pc.toNat 0x1000)) :=
    firstOutside_eq_some.2 ⟨by omega, rfl⟩
  have hmax : BitVec.ofNat 16 (max s.pc.toNat 0x1000) = if s.pc.toNat = 0xFFF then 0x1000 else s.pc := by
    split <;> rename_i hfff
    · rw [hfff]; rfl
    · rw [Nat.max_eq_left (by omega), BitVec.ofNat_toNat, BitVec.setWidth_eq]
  simp only [fetch, hout, hmax]

/-- A halted engine's step (R121). -/
theorem step_of_not_running {s : State} (hr : s.running = false) : step s = .next (s.endWith .idle).afterStep := by
  simp [step, stepBlock, hr, mapNext]

/-- A step whose fetch fails (R64, R264). -/
theorem step_of_fetch_error {s : State} {a : Word} (hr : s.running = true) (hf : fetch s = .error a) :
    step s = .next (s.raise .addressOutOfRange 0 a).afterStep := by
  simp [step, stepBlock, fetchDecodeExecute, hr, hf, mapNext]

/-- A step whose word is no instruction (R123, R261). -/
theorem step_of_decode_error {s : State} {w : Word} {e : Reject} (hr : s.running = true) (hf : fetch s = .ok w)
    (hd : decode w = .error e) : step s = .next (s.raise .unrecognizedOpcode w 0).afterStep := by
  simp [step, stepBlock, fetchDecodeExecute, hr, hf, hd, mapNext]

/-- A step whose word is an instruction (R120). -/
theorem step_of_decode_ok {s : State} {w : Word} {i : Instr} (hr : s.running = true) (hf : fetch s = .ok w)
    (hd : decode w = .ok i) : step s = mapNext State.afterStep (exec i s) :=
  congrArg (mapNext State.afterStep) (step_of_decode hr hf hd)

/-- The decoder on two bytes is `decode` of their word, and leaves no byte (R64, R90). -/
theorem decodeBytes_pair_eq_ok {hi lo : Byte} {i : Instr} :
    decodeBytes [hi, lo] = .ok (i, []) ↔ decode (hi ++ lo) = .ok i := by
  rw [decodeBytes]
  cases decode (hi ++ lo) <;> simp

end Sys2Proof.Machine
end

section
/-! SUPPORT. What an instruction does to memory: who stores, what the stores leave alone, and what Fx55 stores where. -/

namespace Sys2Proof

open Sys2Proof.Machine

/-- Only Fx33 and Fx55 change memory (R67). -/
theorem Effect.mem_eq {i : Instr} {s t : State} (e : Effect i s t) (hi : storeRange i s = none) : t.mem = s.mem := by
  cases e with
  | storedDigits x hx hr h | storedBlock x hx hr h => simp [hx, storeRange] at hi
  | _ => subst t; simp

/-- A byte outside the range an instruction stores to keeps its value (R67). -/
theorem Effect.byteAt_eq {i : Instr} {s t : State} (e : Effect i s t) {a : Nat}
    (ha : ∀ base n, storeRange i s = some (base, n) → a < base ∨ base + n ≤ a) : t.byteAt a = s.byteAt a := by
  cases e with
  | storedDigits x hi hr h =>
    rw [h, byteAt_nextPC]
    exact byteAt_storeBytes_outside s (ha _ _ (hi ▸ rfl))
  | storedBlock x hi hr h =>
    have hout : a < s.i.toNat ∨ s.i.toNat + blockLength x ≤ a := ha _ _ (hi ▸ rfl)
    rw [h, byteAt_nextPC, byteAt_setI]
    exact byteAt_storeBytes_outside s (by rwa [length_registerBlock])
  | _ => subst t; simp

/-- Fx55 inside memory (R204). -/
theorem exec_ldMemVx_of_le {x : Nibble} {s : State} (hr : s.i.toNat + x.toNat ≤ 0xFFF) :
    exec (.ldMemVx x) s =
      .next ((s.storeBytes s.i.toNat (registerBlock s x)).setI (advanceIndex s.i x)).nextPC := by
  have hin : firstOutside s.i.toNat (blockLength x) = none :=
    firstOutside_eq_none.2 (by unfold blockLength; omega)
  simp only [exec, execLdMemVx, hin]

/-- Where Fx55 puts `V[k]` (R204). -/
theorem byteAt_store_registerBlock {s : State} (hm : Memory.wf s.fontset s.mem) (base : Nat) {x k : Nibble}
    (hk : k.toNat ≤ x.toNat) : (s.storeBytes base (registerBlock s x)).byteAt (base + k.toNat) = s.getV k := by
  have hlen : k.toNat < blockLength x := Nat.lt_succ_of_le hk
  rw [byteAt_storeBytes hm.1, length_registerBlock, if_pos (by omega), Nat.add_sub_cancel_left,
    getD_registerBlock s x _ hlen, BitVec.ofNat_toNat, BitVec.setWidth_eq]

end Sys2Proof
end

section
/-! SUPPORT. A machine with another `FONTSET` and another list of cells that read the same (R62), through an
instruction and through a step. -/

namespace Sys2Proof

open Sys2Proof.Machine

/-- `s` with the parameter `f` and the cells `m` in place of its own. -/
def withMemory (s : State) (f : Fontset) (m : List Host.Cell) : State := { s with fontset := f, mem := m }

section Fields

variable (s : State) (f : Fontset) (m : List Host.Cell)

@[simp] theorem withMemory_v : (withMemory s f m).v = s.v := rfl
@[simp] theorem withMemory_i : (withMemory s f m).i = s.i := rfl
@[simp] theorem withMemory_pc : (withMemory s f m).pc = s.pc := rfl
@[simp] theorem withMemory_sp : (withMemory s f m).sp = s.sp := rfl
@[simp] theorem withMemory_ports : (withMemory s f m).ports = s.ports := rfl
@[simp] theorem getV_withMemory (x : Nibble) : (withMemory s f m).getV x = s.getV x := rfl
@[simp] theorem keyLevel_withMemory (x : Nibble) : keyLevel (withMemory s f m) x = keyLevel s x := rfl

/-- A skip moves `PC` alone (R126). -/
@[simp] theorem skipWhen_withMemory (c : Bool) : (withMemory s f m).skipWhen c = withMemory (s.skipWhen c) f m := by
  cases c <;> rfl

end Fields

/-- The cells `m` under `f` read as the memory of `s` does, and both are in canonical form. -/
structure ReadsAlike (s : State) (f : Fontset) (m : List Host.Cell) : Prop where
  wf_own : Memory.wf s.fontset s.mem
  wf_other : Memory.wf f m
  read : ∀ a, (withMemory s f m).byteAt a = s.byteAt a

namespace ReadsAlike

variable {s t : State} {f : Fontset} {m : List Host.Cell} (h : ReadsAlike s f m)
include h

/-- An update that leaves memory and the parameter alone. -/
theorem congr (hf : t.fontset = s.fontset) (hm : t.mem = s.mem) : ReadsAlike t f m where
  wf_own := hf ▸ hm ▸ h.wf_own
  wf_other := h.wf_other
  read a := (h.read a).trans (byteAt_congr hf hm a).symm

/-- The same bytes stored to both. -/
theorem storeBytes {base : Nat} {bytes : List Byte} (hr : base + bytes.length ≤ Config.memSize) :
    ReadsAlike (s.storeBytes base bytes) f (Memory.writeBytes f m base bytes) where
  wf_own := wf_writeBytes h.wf_own base bytes hr
  wf_other := wf_writeBytes h.wf_other base bytes hr
  read a := by
    have hstore : withMemory (s.storeBytes base bytes) f (Memory.writeBytes f m base bytes) =
        (withMemory s f m).storeBytes base bytes := rfl
    rw [hstore, byteAt_storeBytes h.wf_other.1, byteAt_storeBytes h.wf_own.1, h.read a]

/-- The fetch sees memory through its bytes alone (R64). -/
theorem fetch_eq : fetch (withMemory s f m) = fetch s := by
  simp only [fetch, h.read, withMemory_pc]

/-- So does DRW (R221). -/
theorem spriteRows_eq (n : Nibble) : spriteRows (withMemory s f m) n = spriteRows s n :=
  List.map_congr_left fun k _ => h.read (s.i.toNat + k)

/-- So does Fx65 (R205). -/
theorem loadBlock_eq (base : Nat) (x : Nibble) : loadBlock (withMemory s f m) base x = loadBlock s base x := by
  simp only [loadBlock, h.read, withMemory_v]

/-- An instruction that stores nothing does the same, and keeps both memories. -/
theorem exec_of_storeRange_eq_none {i : Instr} (hi : storeRange i s = none) :
    exec i (withMemory s f m) = mapNext (withMemory · f m) (exec i s) := by
  cases i with
  | ret =>
    simp only [exec, execRet, withMemory_sp]
    by_cases hsp : s.sp = 0 <;> simp only [hsp, if_true, if_false] <;> rfl
  | call nnn =>
    simp only [exec, execCall, withMemory_sp]
    by_cases hsp : s.sp = 15 <;> simp only [hsp, if_true, if_false] <;> rfl
  | seImm x kk | sneImm x kk | seReg x y | sneReg x y =>
    exact congrArg Host.Outcome.next (skipWhen_withMemory s f m _)
  | skp x | sknp x =>
    simp only [exec, execSkp, execSknp, keyLevel_withMemory]
    cases keyLevel s x with
    | none => rfl
    | some down => exact congrArg Host.Outcome.next (skipWhen_withMemory s f m _)
  | ldVxK x =>
    simp only [exec, execLdVxK, withMemory_ports]
    cases s.ports.keyFirst <;> rfl
  | drw x y n =>
    simp only [exec, execDrw, withMemory_i, getV_withMemory, h.spriteRows_eq]
    cases firstOutside s.i.toNat n.toNat with
    | some a => rfl
    | none => cases offGrid (s.getV x) (s.getV y) n <;> rfl
  | ldVxMem x =>
    simp only [exec, execLdVxMem, withMemory_i, h.loadBlock_eq]
    cases firstOutside s.i.toNat (blockLength x) <;> rfl
  | ldBVx x | ldMemVx x => cases hi
  | _ => rfl

/-- Every instruction does the same, and leaves memories that read alike. -/
theorem exec_next {i : Instr} (he : exec i s = .next t) :
    ∃ m', exec i (withMemory s f m) = .next (withMemory t f m') ∧ ReadsAlike t f m' := by
  cases i with
  | ldBVx x =>
    simp only [exec, execLdBVx, withMemory_i, getV_withMemory, Host.Outcome.next.injEq] at he ⊢
    subst he
    cases hr : firstOutside s.i.toNat 3 with
    | some a => exact ⟨m, rfl, h.congr rfl rfl⟩
    | none =>
      have hfits : s.i.toNat + (decimalDigits (s.getV x)).length ≤ Config.memSize :=
        le_memSize_of_firstOutside (by simp [decimalDigits]) hr
      exact ⟨_, rfl, (h.storeBytes hfits).congr rfl rfl⟩
  | ldMemVx x =>
    simp only [exec, execLdMemVx, withMemory_i, Host.Outcome.next.injEq] at he ⊢
    subst he
    cases hr : firstOutside s.i.toNat (blockLength x) with
    | some a => exact ⟨m, rfl, h.congr rfl rfl⟩
    | none =>
      have hfits : s.i.toNat + (registerBlock s x).length ≤ Config.memSize := by
        rw [length_registerBlock]
        exact le_memSize_of_firstOutside (by simp [blockLength]) hr
      exact ⟨_, rfl, (h.storeBytes hfits).congr rfl rfl⟩
  | _ =>
    refine ⟨m, ?_, h.congr (exec_untouched he).fontset ((exec_effect he).mem_eq rfl)⟩
    rw [h.exec_of_storeRange_eq_none rfl, he]
    rfl

/-- A step does the same, and leaves memories that read alike. -/
theorem step_next (hstep : step s = .next t) :
    ∃ m', step (withMemory s f m) = .next (withMemory t f m') ∧ ReadsAlike t f m' := by
  cases step_ending hstep with
  | idle hr ht => exact ⟨m, ht ▸ step_of_not_running hr, ht ▸ h.congr rfl rfl⟩
  | fetchFault hr a hf ht =>
    exact ⟨m, ht ▸ step_of_fetch_error hr (h.fetch_eq.trans hf), ht ▸ h.congr rfl rfl⟩
  | unrecognized hr w hf e hd ht =>
    exact ⟨m, ht ▸ step_of_decode_error hr (h.fetch_eq.trans hf) hd, ht ▸ h.congr rfl rfl⟩
  | executed hr w hf i hd u he ht =>
    obtain ⟨m', he', hu⟩ := h.exec_next he
    refine ⟨m', ?_, ht ▸ hu.congr rfl rfl⟩
    rw [step_of_decode_ok (s := withMemory s f m) hr (h.fetch_eq.trans hf) hd, he', ht]
    rfl

end ReadsAlike

end Sys2Proof
end

section
/-! PROOF. The statements of 20_memory.md. -/

namespace Sys2Proof

open Sys2Proof.Machine

/-- Settles O7: the fetched word is the two bytes the decoder was given. -/
theorem stepRunsDecodedInstruction : Obligations.StepRunsDecodedInstruction := by
  intro s i hr hpc hd
  exact step_of_decode_ok hr (fetch_of_pc_le hpc) (decodeBytes_pair_eq_ok.1 hd)

/-- Settles O8: the fetch, by the place of `PC`. -/
theorem fetchIsBigEndianAndChecked : Obligations.FetchIsBigEndianAndChecked := by
  intro s
  refine ⟨fun hpc => ⟨_, fetch_of_pc_le hpc, toNat_append_byte _ _⟩, fun hpc hr => ?_⟩
  exact step_of_fetch_error hr (fetch_of_lt_pc hpc)

/-- Settles O19: by the effects of an instruction, of which two store. -/
theorem frameOfMemory : Obligations.FrameOfMemory :=
  fun _ _ _ _ h ha => (exec_effect h).byteAt_eq ha

/-- Settles O38: the next word's two addresses are the places of `V[j]` and `V[k]` in the block just stored. -/
theorem storesAreSeenByTheNextFetch : Obligations.StoresAreSeenByTheNextFetch := by
  intro x j k s t hm hr h hjk hkx hpc
  obtain rfl := Host.Outcome.next.inj ((exec_ldMemVx_of_le hr).symm.trans h)
  have hj : (s.pc + 2).toNat = s.i.toNat + j.toNat := by bv_omega
  have hk : s.i.toNat + j.toNat + 1 = s.i.toNat + k.toNat := by omega
  refine ⟨_, fetch_of_pc_le (hj.trans_le (by omega)), ?_⟩
  simp only [nextPC_pc, setI_pc, storeBytes_pc, byteAt_nextPC, byteAt_setI, toNat_append_byte, hj, hk]
  rw [byteAt_store_registerBlock hm _ (by omega), byteAt_store_registerBlock hm _ hkx]

/-- Settles O51: `load` is a store of the image from 0x200. -/
theorem loadCopiesTheImage : Obligations.LoadCopiesTheImage := by
  intro image s
  refine ⟨fun hm hopen hlen => ?_, fun hclosed => ?_, fun hopen hlong => ?_⟩
  · refine ⟨_, load_eq_next.2 ⟨hopen, hlen, rfl⟩, rfl, fun k hk => ?_, fun a ha => ?_⟩
    · have hbyte := byteAt_storeBytes hm.1 Config.programBase image (Config.programBase + k)
      rwa [if_pos (by omega), Nat.add_sub_cancel_left] at hbyte
    · exact byteAt_storeBytes_outside s ha
  · simp [operate, load, hclosed]
  · simp [operate, load, hopen, Nat.not_le.2 hlong]

/-- Settles O52: `initialize` answers the reset state, whose memory lists nothing. -/
theorem initializeResetsTheBlock : Obligations.InitializeResetsTheBlock := by
  intro s
  refine ⟨initializeBlock s, rfl, fun r => ?_, rfl, rfl, rfl, fun k => ?_, rfl, rfl, fun a ha => ?_, fun a ha _ => ?_,
    fun px _ py _ => pixel_blankScreen px py, rfl, rfl, rfl, rfl, rfl, rfl⟩
  · exact Vector.getElem_replicate r.isLt
  · exact Vector.getElem_replicate k.isLt
  · exact dif_pos ha
  · exact dif_neg (by omega)

/-- Settles O55: such a state is `s` with another memory that reads alike. -/
theorem fontsetMattersOnlyThroughMemory : Obligations.FontsetMattersOnlyThroughMemory := by
  intro s t f m hs hm hread hstep
  have alike : ReadsAlike s f m := ⟨hs, hm, hread⟩
  obtain ⟨m', hstep', ht⟩ := alike.step_next hstep
  exact ⟨m', hstep', ht.wf_own, ht.wf_other, ht.read⟩

end Sys2Proof
end


section
/-! SUPPORT. The decoder in both directions: what it reads from the word of an instruction, and what a word is from
which it reads something (R94, R95, R96). -/

namespace Sys2Proof

/-- Format NNN: two operands of one class never share a word (R92). -/
theorem packNnn_right_inj {c : Nibble} {a b : Addr12} : packNnn c a = packNnn c b ↔ a = b :=
  ⟨fun h => by simpa using congrArg fieldNnn h, congrArg (packNnn c)⟩

/-- R94: the well-formed SYS are those whose word is neither 00E0 nor 00EE. -/
theorem wellFormed_sys_iff {nnn : Addr12} :
    (Instr.sys nnn).wellFormed = true ↔ packNnn 0 nnn ≠ 0x00E0#16 ∧ packNnn 0 nnn ≠ 0x00EE#16 := by
  have hcls : packNnn 0 nnn = 0x00E0#16 ↔ nnn = 0x0E0#12 := packNnn_right_inj (b := 0x0E0#12)
  have hret : packNnn 0 nnn = 0x00EE#16 ↔ nnn = 0x0EE#12 := packNnn_right_inj (b := 0x0EE#12)
  rw [Ne, Ne, hcls, hret]
  simp [Instr.wellFormed]

/-- Apart from the two full-word opcodes the class decides (R94). -/
theorem decode_eq_decodeClass {w : Word} (hcls : w ≠ 0x00E0#16) (hret : w ≠ 0x00EE#16) :
    decode w = decodeClass w := by
  rw [decode, if_neg hcls, if_neg hret]

/-- Both full-word opcodes are of class 0 (R94). -/
theorem decode_of_fieldClass_ne_zero {w : Word} (hc : fieldClass w ≠ 0) : decode w = decodeClass w :=
  decode_eq_decodeClass (fun h => hc (h ▸ rfl)) (fun h => hc (h ▸ rfl))

/-- The decoder reads a well-formed instruction back from its word: the class alone decides, or `n` under classes 5, 8
and 9, or `kk` under classes E and F. -/
theorem decode_encode {i : Instr} (hi : i.wellFormed = true) : decode (encode i) = .ok i := by
  cases i with
  | cls | ret => rfl
  | sys nnn =>
    obtain ⟨hcls, hret⟩ := wellFormed_sys_iff.1 hi
    rw [encode, decode_eq_decodeClass hcls hret]
    simp [decodeClass]
  | jp nnn | call nnn | ldI nnn | jpV0 nnn | seImm x kk | sneImm x kk | ldImm x kk | addImm x kk | rnd x kk
  | drw x y n | seReg x y | sneReg x y =>
    rw [decode_of_fieldClass_ne_zero (by simp [encode])]
    simp [encode, decodeClass]
  | ldReg x y | orReg x y | andReg x y | xorReg x y | addReg x y | subReg x y | shr x y | subn x y | shl x y =>
    rw [decode_of_fieldClass_ne_zero (by simp [encode])]
    simp [encode, decodeClass, decodeAlu]
  | skp x | sknp x =>
    rw [decode_of_fieldClass_ne_zero (by simp [encode])]
    simp [encode, decodeClass, decodeKey]
  | ldVxDt x | ldVxK x | ldDtVx x | ldStVx x | addIVx x | ldFVx x | ldBVx x | ldMemVx x | ldVxMem x =>
    rw [decode_of_fieldClass_ne_zero (by simp [encode])]
    simp [encode, decodeClass, decodeMisc]

/-- The words of R96's table. -/
def Unrecognized (w : Word) : Prop :=
  (fieldClass w = 0x5 ∧ fieldN w ≠ 0) ∨
  (fieldClass w = 0x8 ∧ fieldN w ∈ [0x8, 0x9, 0xA, 0xB, 0xC, 0xD, 0xF]) ∨
  (fieldClass w = 0x9 ∧ fieldN w ≠ 0) ∨
  (fieldClass w = 0xE ∧ fieldKk w ∉ [0x9E, 0xA1]) ∨
  (fieldClass w = 0xF ∧ fieldKk w ∉ [0x07, 0x0A, 0x15, 0x18, 0x1E, 0x29, 0x33, 0x55, 0x65])

/-- No word of an instruction is in R96's table. -/
theorem not_unrecognized_encode (i : Instr) : ¬ Unrecognized (encode i) := by
  cases i with
  | cls | ret => unfold Unrecognized; decide
  | _ => simp [Unrecognized, encode]

section Packed

variable {w : Word} {c n : Nibble} {kk : Byte}

/-- A word from its class, format NNN. -/
theorem packNnn_eq (hc : fieldClass w = c) : packNnn c (fieldNnn w) = w :=
  hc ▸ packNnn_fields w

/-- A word from its class and `kk`, formats XKK and X. -/
theorem packXKk_eq (hc : fieldClass w = c) (hk : fieldKk w = kk) : packXKk c (fieldX w) kk = w :=
  hc ▸ hk ▸ packXKk_fields w

/-- A word from its class and `n`, formats XY and XYN. -/
theorem packXYN_eq (hc : fieldClass w = c) (hn : fieldN w = n) : packXYN c (fieldX w) (fieldY w) n = w :=
  hc ▸ hn ▸ packXYN_fields w

end Packed

/-- What the decoder can answer for `w` (R94). -/
inductive Reading (w : Word) : Except Reject Instr → Prop where
  /-- A well-formed instruction whose word is `w` (R95). -/
  | instruction (i : Instr) (wellFormed : i.wellFormed = true) (word : encode i = w) : Reading w (.ok i)
  /-- No instruction (R96). -/
  | unrecognized (h : Unrecognized w) : Reading w (.error (.unrecognizedOpcode w))

/-- The readings of class 8. -/
theorem decodeAlu_reading {w : Word} (hc : fieldClass w = 0x8) : Reading w (decodeAlu w) := by
  have other : ∀ n : Nibble,
      n.toNat ∉ [0, 1, 2, 3, 4, 5, 6, 7, 0xE] → n ∈ [0x8, 0x9, 0xA, 0xB, 0xC, 0xD, 0xF] := by decide
  unfold decodeAlu
  split <;> rename_i hn
  case h_10 => exact .unrecognized (.inr (.inl ⟨hc, other _ (by simp_all)⟩))
  all_goals exact .instruction _ rfl (packXYN_eq hc (BitVec.toNat_eq_nat.1 hn).2)

/-- The readings of class E. -/
theorem decodeKey_reading {w : Word} (hc : fieldClass w = 0xE) : Reading w (decodeKey w) := by
  unfold decodeKey
  split <;> rename_i hk
  case h_3 => exact .unrecognized (.inr (.inr (.inr (.inl ⟨hc, by simp_all [← BitVec.toNat_inj]⟩))))
  all_goals exact .instruction _ rfl (packXKk_eq hc (BitVec.toNat_eq_nat.1 hk).2)

/-- The readings of class F. -/
theorem decodeMisc_reading {w : Word} (hc : fieldClass w = 0xF) : Reading w (decodeMisc w) := by
  unfold decodeMisc
  split <;> rename_i hk
  case h_10 => exact .unrecognized (.inr (.inr (.inr (.inr ⟨hc, by simp_all [← BitVec.toNat_inj]⟩))))
  all_goals exact .instruction _ rfl (packXKk_eq hc (BitVec.toNat_eq_nat.1 hk).2)

/-- The readings of a word that is neither 00E0 nor 00EE, the `k`-th case being class `k - 1`. -/
theorem decodeClass_reading {w : Word} (hcls : w ≠ 0x00E0#16) (hret : w ≠ 0x00EE#16) :
    Reading w (decodeClass w) := by
  unfold decodeClass
  split <;> rename_i hc
  case h_17 =>
    have hlt := (fieldClass w).isLt
    simp only [imp_false] at *
    omega
  all_goals replace hc := (BitVec.toNat_eq_nat.1 hc).2
  case h_1 =>
    have hw : packNnn 0 (fieldNnn w) = w := packNnn_eq hc
    exact .instruction (.sys _) (wellFormed_sys_iff.2 (hw.symm ▸ ⟨hcls, hret⟩)) hw
  case h_2 | h_3 | h_11 | h_12 => exact .instruction _ rfl (packNnn_eq hc)
  case h_4 | h_5 | h_7 | h_8 | h_13 => exact .instruction _ rfl (packXKk_eq hc rfl)
  case h_14 => exact .instruction _ rfl (packXYN_eq hc rfl)
  case h_6 =>
    split <;> rename_i hn
    · exact .instruction _ rfl (packXYN_eq hc hn)
    · exact .unrecognized (.inl ⟨hc, hn⟩)
  case h_10 =>
    split <;> rename_i hn
    · exact .instruction _ rfl (packXYN_eq hc hn)
    · exact .unrecognized (.inr (.inr (.inl ⟨hc, hn⟩)))
  case h_9 => exact decodeAlu_reading hc
  case h_15 => exact decodeKey_reading hc
  case h_16 => exact decodeMisc_reading hc

/-- Every word has one of the readings, by the decoder's dispatch. -/
theorem decode_reading (w : Word) : Reading w (decode w) := by
  by_cases hcls : w = 0x00E0#16
  · exact hcls ▸ .instruction .cls rfl rfl
  by_cases hret : w = 0x00EE#16
  · exact hret ▸ .instruction .ret rfl rfl
  rw [decode_eq_decodeClass hcls hret]
  exact decodeClass_reading hcls hret

end Sys2Proof
end

section
/-! SUPPORT. The rows of the opcode map (R95): a word that a row selects agrees with the row's instructions on every
field the decoder dispatches on. -/

namespace Sys2Proof

@[simp] theorem fieldClass_and (v w : Word) : fieldClass (v &&& w) = fieldClass v &&& fieldClass w :=
  BitVec.extractLsb'_and

@[simp] theorem fieldN_and (v w : Word) : fieldN (v &&& w) = fieldN v &&& fieldN w :=
  BitVec.extractLsb'_and

@[simp] theorem fieldKk_and (v w : Word) : fieldKk (v &&& w) = fieldKk v &&& fieldKk w :=
  BitVec.extractLsb'_and

/-- The row of `i` selects `w`. -/
def Selects (i : Instr) (w : Word) : Prop := w &&& (opcodeRow i).1 = (opcodeRow i).2

/-- The law of every instruction, row by row: its word lies in its row. -/
theorem selects_encode (i : Instr) : Selects i (encode i) := by
  cases i with
  | cls | ret => rfl
  | sys nnn | jp nnn | call nnn | ldI nnn | jpV0 nnn => exact Laws.OpcodeRow.select_nnn _ _
  | seImm x kk | sneImm x kk | ldImm x kk | addImm x kk | rnd x kk => exact Laws.OpcodeRow.select_xkk _ _ _
  | drw x y n => exact Laws.OpcodeRow.select_xyn _ _ _ _
  | seReg x y | sneReg x y | ldReg x y | orReg x y | andReg x y | xorReg x y | addReg x y | subReg x y | shr x y
  | subn x y | shl x y => exact Laws.OpcodeRow.select_xy _ _ _ _
  | skp x | sknp x | ldVxDt x | ldVxK x | ldDtVx x | ldStVx x | addIVx x | ldFVx x | ldBVx x | ldMemVx x
  | ldVxMem x => exact Laws.OpcodeRow.select_x _ _ _

namespace Selects

variable {i : Instr} {w : Word} (h : Selects i w)
include h

/-- Under the row's mask, `w` is the word of `i`. -/
theorem and_eq : w &&& (opcodeRow i).1 = encode i &&& (opcodeRow i).1 := h.trans (selects_encode i).symm

/-- Every mask covers the class. -/
theorem fieldClass_eq : fieldClass w = fieldClass (encode i) := by
  have hmask : fieldClass (opcodeRow i).1 = 0xF := by cases i <;> simp only [opcodeRow] <;> rfl
  simpa only [fieldClass_and, hmask, Laws.OpcodeRow.and_fifteen] using congrArg fieldClass h.and_eq

/-- The masks of format XY cover `n`. -/
theorem fieldN_eq (hmask : (opcodeRow i).1 = 0xF00F) : fieldN w = fieldN (encode i) := by
  have hn : fieldN 0xF00F = 0xF := rfl
  simpa only [hmask, fieldN_and, hn, Laws.OpcodeRow.and_fifteen] using congrArg fieldN h.and_eq

/-- The masks of format X cover `kk`. -/
theorem fieldKk_eq (hmask : (opcodeRow i).1 = 0xF0FF) : fieldKk w = fieldKk (encode i) := by
  have hk : fieldKk 0xF0FF = 0xFF := rfl
  simpa only [hmask, fieldKk_and, hk, Laws.OpcodeRow.and_byte] using congrArg fieldKk h.and_eq

/-- The decoder reads an instruction of the row from every word that the row selects; of the SYS row, where the two
full-word opcodes are not tested first. -/
theorem exists_decode_eq_ok (hsys : opcodeRow i = (0xF000, 0x0000) → w ≠ 0x00E0 ∧ w ≠ 0x00EE) :
    ∃ j, decode w = .ok j ∧ opcodeRow j = opcodeRow i := by
  have hc := h.fieldClass_eq
  cases i with
  | cls | ret =>
    obtain rfl := (BitVec.and_allOnes (x := w)).symm.trans h
    exact ⟨_, rfl, rfl⟩
  | sys nnn =>
    obtain ⟨hcls, hret⟩ := hsys rfl
    rw [decode_eq_decodeClass hcls hret]
    simp [decodeClass, hc, encode, opcodeRow]
  | jp nnn | call nnn | ldI nnn | jpV0 nnn | seImm x kk | sneImm x kk | ldImm x kk | addImm x kk | rnd x kk
  | drw x y n =>
    rw [decode_of_fieldClass_ne_zero (by simp [hc, encode])]
    simp [decodeClass, hc, encode, opcodeRow]
  | seReg x y | sneReg x y =>
    have hn := h.fieldN_eq rfl
    rw [decode_of_fieldClass_ne_zero (by simp [hc, encode])]
    simp [decodeClass, hc, hn, encode, opcodeRow]
  | ldReg x y | orReg x y | andReg x y | xorReg x y | addReg x y | subReg x y | shr x y | subn x y | shl x y =>
    have hn := h.fieldN_eq rfl
    rw [decode_of_fieldClass_ne_zero (by simp [hc, encode])]
    simp [decodeClass, decodeAlu, hc, hn, encode, opcodeRow]
  | skp x | sknp x =>
    have hk := h.fieldKk_eq rfl
    rw [decode_of_fieldClass_ne_zero (by simp [hc, encode])]
    simp [decodeClass, decodeKey, hc, hk, encode, opcodeRow]
  | ldVxDt x | ldVxK x | ldDtVx x | ldStVx x | addIVx x | ldFVx x | ldBVx x | ldMemVx x | ldVxMem x =>
    have hk := h.fieldKk_eq rfl
    rw [decode_of_fieldClass_ne_zero (by simp [hc, encode])]
    simp [decodeClass, decodeMisc, hc, hk, encode, opcodeRow]

end Selects

end Sys2Proof
end

section
/-! PROOF. The statements of 30_encoding.md. -/

namespace Sys2Proof

/-- Settles O3. -/
theorem decodeOfEncode : Obligations.DecodeOfEncode := fun _ => decode_encode

/-- Settles O4: the reading is an instruction. -/
theorem encodeOfDecode : Obligations.EncodeOfDecode := by
  intro w i hd
  have reading := decode_reading w
  rw [hd] at reading
  cases reading with
  | instruction _ wellFormed word => exact ⟨word, wellFormed⟩

/-- Settles O5: the word of an instruction lies in its row, and what a row selects is read as an instruction of it. -/
theorem decodeSelectsOpcodeRow : Obligations.DecodeSelectsOpcodeRow := by
  intro w i
  refine ⟨fun ⟨j, hd, hrow⟩ => ?_, fun ⟨hsel, hsys⟩ => Selects.exists_decode_eq_ok hsel hsys⟩
  obtain ⟨rfl, -⟩ := encodeOfDecode w j hd
  rw [← hrow]
  refine ⟨selects_encode j, fun hsys => ⟨fun hw => ?_, fun hw => ?_⟩⟩
  · obtain rfl : Instr.cls = j := Except.ok.inj ((congrArg decode hw).symm.trans hd)
    exact absurd hsys (by decide)
  · obtain rfl : Instr.ret = j := Except.ok.inj ((congrArg decode hw).symm.trans hd)
    exact absurd hsys (by decide)

/-- Settles O6: a word is in R96's table or the word of an instruction, and no word is both. -/
theorem unrecognizedWords : Obligations.UnrecognizedWords := by
  intro w
  change (_ ↔ Unrecognized w) ∧ _
  have reading := decode_reading w
  generalize decode w = answer at reading
  cases reading with
  | instruction i _ word => simp [← word, not_unrecognized_encode i]
  | unrecognized h => simp [h]

/-- Settles O1: four fixed words. -/
theorem sourceEncodingsDecode : Obligations.SourceEncodingsDecode := by
  unfold Obligations.SourceEncodingsDecode
  decide

/-- Settles O2: thirteen fixed words. -/
theorem familyWordsDecode : Obligations.FamilyWordsDecode := by
  unfold Obligations.FamilyWordsDecode
  decide

end Sys2Proof
end

section
/-! SUPPORT. What an instruction has done by the status it answers, and that every step answers one (R120, R128). -/

namespace Sys2Proof.Machine

/-- A step is total: a halt, a failed fetch and an unrecognized word are next states too, beside what `exec` answers. -/
theorem step_answers_next (s : State) : ∃ t, step s = .next t := by
  cases hr : s.running with
  | false => exact ⟨_, step_of_not_running hr⟩
  | true =>
    cases hf : fetch s with
    | error a => exact ⟨_, step_of_fetch_error hr hf⟩
    | ok w =>
      cases hd : decode w with
      | error e => exact ⟨_, step_of_decode_error hr hf hd⟩
      | ok i =>
        obtain ⟨u, he⟩ := exec_answers_next i s
        exact ⟨u.afterStep, by rw [step_of_decode_ok hr hf hd, he, mapNext_next]⟩

namespace Ending

variable {i : Instr} {s t : State} (e : Ending i s t)
include e

/-- Only a step that executes nothing is Idle (R121). -/
theorem status_ne_idle : t.status ≠ .idle := by
  cases e with
  | retired hs _ _ _ => simp [hs]
  | _ => subst t; simp

/-- Only Fx0A waits, for want of a key (R245). -/
theorem waited_of_status (hs : t.status = .waiting) :
    (∃ x, i = .ldVxK x) ∧ s.ports.keyFirst = none ∧ t = s.endWith .waiting := by
  cases e with
  | waiting x hi hk h => exact ⟨⟨x, hi⟩, hk, h⟩
  | faulted c info hc h | halted nnn hi h => simp [h] at hs
  | retired hr _ _ _ => simp [hr] at hs

/-- A fault is raised, and nothing more (R269). -/
theorem raised_of_status (hs : t.status = .faulted) : ∃ c info, t = s.raise c (encode i) info := by
  cases e with
  | faulted c info hc h => exact ⟨c, info, h⟩
  | waiting x hi hk h | halted nnn hi h => simp [h] at hs
  | retired hr _ _ _ => simp [hr] at hs

/-- While the engine runs the halt record is not written (R35). -/
theorem halt_eq_of_running (hrun : t.running = true) : t.halt = s.halt := by
  cases e with
  | faulted c info hc h | halted nnn hi h => simp [h] at hrun
  | waiting x hi hk h => rw [h, endWith_halt]
  | retired _ _ hh _ => exact hh

end Ending

end Sys2Proof.Machine

namespace Sys2Proof

open Sys2Proof.Machine

/-- Of the retirements only SYS stops the engine (R141). -/
theorem running_eq_false_iff_sys {i : Instr} {s t : State} (he : exec i s = .next t) (hr : s.running = true)
    (hs : t.status = .retired) : t.running = false ↔ ∃ nnn, i = .sys nnn := by
  constructor
  · intro hstop
    by_contra hsys
    have hkept : t.running = s.running :=
      (Ending.runState_eq (exec_ending he) hs fun nnn hi => hsys ⟨nnn, hi⟩).1
    simp [hkept, hr] at hstop
  · rintro ⟨nnn, rfl⟩
    exact Host.Outcome.next.inj he ▸ rfl

/-- No instruction clears `needs_repaint` (R33). -/
theorem Effect.needsRepaint_of_needsRepaint {i : Instr} {s t : State} (e : Effect i s t)
    (hn : s.needsRepaint = true) : t.needsRepaint = true := by
  cases e with
  | cleared hi h | drew x y n hi fb flag h => simp [h]
  | _ => subst t; simpa using hn

end Sys2Proof
end

section
/-! SUPPORT. A run of steps as a run of the operation `step` (R130). -/

namespace Sys2Proof

open Sys2Proof.Machine

/-- One step more is a step and the rest of the run. -/
theorem run_succ_of_step {s t : State} (h : step s = .next t) (n : Nat) :
    Host.Core.run core (n + 1) s = Host.Core.run core n t := by
  have hstep : Host.Core.step core s = .next t := h
  simp only [Host.Core.run, hstep]

/-- A run of operations that begins with a step. -/
theorem runOperations_step_cons {s t : State} (h : step s = .next t) (ops : List Operation) :
    runOperations (.step :: ops) s = runOperations ops t := by
  rw [runOperations, operate, h]

/-- `n` steps of the machine answer a next state, from which the operations after `n` operations `step` go on. -/
theorem runOperations_replicate_step_append (n : Nat) (ops : List Operation) (s : State) :
    ∃ u, Host.Core.run core n s = .next u ∧
      runOperations (List.replicate n .step ++ ops) s = runOperations ops u := by
  induction n generalizing s with
  | zero => exact ⟨s, rfl, rfl⟩
  | succ n ih =>
    obtain ⟨t, h⟩ := step_answers_next s
    obtain ⟨u, hrun, hops⟩ := ih t
    refine ⟨u, (run_succ_of_step h n).trans hrun, ?_⟩
    rw [List.replicate_succ, List.cons_append, runOperations_step_cons h, hops]

end Sys2Proof
end

section
/-! PROOF. The statements of 40_step_cycle.md. -/

namespace Sys2Proof

open Sys2Proof.Machine

/-- Settles O11: a step is total, and its clauses are read off the way it ends; off the status, where an instruction was
executed. -/
theorem statusTellsWhatTheStepDid : Obligations.StatusTellsWhatTheStepDid := by
  refine ⟨⟨rfl, rfl, rfl, rfl⟩, fun s => ?_⟩
  obtain ⟨t, h⟩ := step_answers_next s
  refine ⟨t, h, ?_⟩
  cases step_ending h with
  | idle hr ht =>
    subst ht
    exact ⟨by simp [hr], fun _ => rfl, nofun, nofun, nofun⟩
  | fetchFault hr a hf ht | unrecognized hr w hf e hd ht =>
    subst ht
    exact ⟨by simp [hr], nofun, nofun, nofun, fun _ => rfl⟩
  | executed hr w hf i hd u he ht =>
    subst ht
    have ending := exec_ending he
    have hidle := ending.status_ne_idle
    refine ⟨by simp [hidle, hr], fun hs => absurd hs hidle, fun hs => ?_, fun hs => ?_, fun hs => ?_⟩
    · exact ⟨w, i, u, hf, hd, he, rfl, running_eq_false_iff_sys (t := u) he hr hs⟩
    · obtain ⟨⟨x, rfl⟩, hk, rfl⟩ := ending.waited_of_status hs
      exact ⟨⟨w, x, hf, hd⟩, hk, rfl⟩
    · obtain ⟨c, info, rfl⟩ := ending.raised_of_status hs
      rfl

/-- Settles O13: where no instruction is executed the state shows it, and else it is the instruction's frame. -/
theorem whatAStepNeverDoes : Obligations.WhatAStepNeverDoes := by
  intro s t h
  cases step_ending h with
  | idle hr ht | fetchFault hr a hf ht | unrecognized hr w hf e hd ht => simp [ht]
  | executed hr w hf i hd u he ht =>
    subst ht
    have effect := exec_effect he
    refine ⟨fun hne => ?_, fun hne => ?_, effect.needsRepaint_of_needsRepaint, fun _ => hr,
      (exec_ending he).halt_eq_of_running⟩
    · by_contra hno
      exact hne (effect.dt_eq fun x hi => hno ⟨w, x, hf, hi ▸ hd⟩)
    · by_contra hno
      exact hne (effect.st_eq fun x hi => hno ⟨w, x, hf, hi ▸ hd⟩)

/-- Settles O53: the cycle's operations are `n` steps followed by the tick alone. -/
theorem cycleIsStepsThenTick : Obligations.CycleIsStepsThenTick :=
  fun n s => runOperations_replicate_step_append n [.tick] s

end Sys2Proof
end

section
/-! SUPPORT. Control transfer by its cases: what CALL and RET answer, and the targets of the transfers as numbers (R140,
R142 to R144). -/

namespace Sys2Proof

open Sys2Proof.Machine

/-- The target of JP and CALL as a number (R93). -/
@[simp] theorem toNat_zext16 (nnn : Addr12) : (zext16 nnn).toNat = nnn.toNat :=
  BitVec.toNat_setWidth_of_le (by decide)

/-- The target of JP V0 as a number: the sum fits in 16 bits (R144). -/
theorem toNat_zextByte_add_zext16 (b : Byte) (nnn : Addr12) :
    (zextByte b + zext16 nnn).toNat = b.toNat + nnn.toNat := by
  have hb : (zextByte b).toNat = b.toNat := BitVec.toNat_setWidth_of_le (by decide)
  rw [BitVec.toNat_add, hb, toNat_zext16]
  omega

/-- `SP + 1` below the top of the stack (R29). -/
theorem toNat_add_one_of_ne {k : Nibble} (hk : k ≠ 15) : (k + 1).toNat = k.toNat + 1 := by
  bv_omega

/-- The model's fault entry, field by field (R269). -/
theorem raise_eq_faultedState (s : State) (c : HaltCause) (opcode info : Word) :
    s.raise c opcode info = faultedState s c opcode info := rfl

/-- RET with a return address on the stack (R140). -/
theorem exec_ret_of_sp_ne_zero {s : State} (hsp : s.sp ≠ 0) :
    exec .ret s = .next ((s.setSP (s.sp - 1)).retireAt (s.getSlot s.sp + 2)) := by
  rw [exec, execRet, if_neg hsp]

/-- RET on an empty stack (R263). -/
theorem exec_ret_of_sp_eq_zero {s : State} (hsp : s.sp = 0) :
    exec .ret s = .next (faultedState s .stackUnderflow 0x00EE 0) := by
  rw [exec, execRet, if_pos hsp, raise_eq_faultedState]
  rfl

/-- CALL with a free slot (R143). -/
theorem exec_call_of_sp_ne_15 (nnn : Addr12) {s : State} (hsp : s.sp ≠ 15) :
    exec (.call nnn) s =
      .next (((s.setSP (s.sp + 1)).setSlot (s.sp + 1) s.pc).retireAt (zext16 nnn)) := by
  rw [exec, execCall, if_neg hsp]

/-- CALL on a full stack (R262). -/
theorem exec_call_of_sp_eq_15 (nnn : Addr12) {s : State} (hsp : s.sp = 15) :
    exec (.call nnn) s = .next (faultedState s .stackOverflow (packNnn 0x2 nnn) 15) := by
  rw [exec, execCall, if_pos hsp, raise_eq_faultedState, encode]

/-- A step onto a CALL with a free slot (R120, R143). -/
theorem step_of_fetch_call {s : State} {nnn : Addr12} (hr : s.running = true) (hsp : s.sp ≠ 15)
    (hf : fetch s = .ok (packNnn 0x2 nnn)) :
    step s = .next (((s.setSP (s.sp + 1)).setSlot (s.sp + 1) s.pc).retireAt (zext16 nnn)).afterStep := by
  rw [step_of_decode_ok hr hf (decode_encode (i := .call nnn) rfl), exec_call_of_sp_ne_15 nnn hsp, mapNext_next]

/-- A step onto a RET with a return address on the stack (R120, R140). -/
theorem step_of_fetch_ret {s : State} (hr : s.running = true) (hsp : s.sp ≠ 0) (hf : fetch s = .ok (encode .ret)) :
    step s = .next ((s.setSP (s.sp - 1)).retireAt (s.getSlot s.sp + 2)).afterStep := by
  rw [step_of_decode_ok hr hf (decode_encode rfl), exec_ret_of_sp_ne_zero hsp, mapNext_next]

end Sys2Proof
end

section
/-! PROOF. The statements of 41_control_flow.md. -/

namespace Sys2Proof

open Sys2Proof.Machine

/-- Settles O25: the CALL's step leaves the bytes of the RET and puts its own address in the slot that the RET's step
reads. -/
theorem callThenReturnComesBack : Obligations.CallThenReturnComesBack := by
  intro nnn s hr hsp hf hnnn hhi hlo
  have hpc : s.pc.toNat ≤ 0xFFE := pc_le_of_fetch hf
  have hsp1 : s.sp + 1 ≠ 0 := by bv_omega
  obtain ⟨t, ht, hcall⟩ : ∃ t, t = _ ∧ step s = .next t := ⟨_, rfl, step_of_fetch_call hr hsp hf⟩
  have htsp : t.sp = s.sp + 1 := by simp [ht]
  have htpc : t.pc.toNat = nnn.toNat := by simp [ht]
  have htslot : t.getSlot t.sp = s.pc := by simp [ht]
  have hfetch : fetch t = .ok (encode .ret) := by
    rw [fetch_of_pc_le (htpc.trans_le hnnn), htpc, ht]
    simp [hhi, hlo, encode]
  have hret := step_of_fetch_ret (by simp [ht, hr]) (htsp ▸ hsp1) hfetch
  refine ⟨t, _, hcall, hret, htsp ▸ toNat_add_one_of_ne hsp, htslot, htpc, ?_, ?_⟩
  · simp only [afterStep_pc, retireAt_pc, htslot]
    bv_omega
  · simp [htsp]

/-- Settles O21: the two cases of RET. -/
theorem returnPopsTheStack : Obligations.ReturnPopsTheStack := by
  refine ⟨decode_encode (i := .ret) rfl, fun s => ⟨fun hsp => ?_, exec_ret_of_sp_eq_zero⟩⟩
  exact ⟨_, exec_ret_of_sp_ne_zero hsp, rfl, BitVec.toNat_add _ _, by rw [retireAt_sp, setSP_sp]; bv_omega⟩

/-- Settles O22: SYS is read from each of its well-formed words, and its meaning has no cases. -/
theorem sysHaltsTheEngine : Obligations.SysHaltsTheEngine := by
  refine fun nnn s => ⟨fun hcls hret => ?_, rfl⟩
  exact decode_encode (i := .sys nnn) (by simpa [Instr.wellFormed] using ⟨hcls, hret⟩)

/-- Settles O23: the two targets as numbers. -/
theorem jumpsSetThePc : Obligations.JumpsSetThePc := fun nnn s =>
  ⟨decode_encode (i := .jp nnn) rfl, decode_encode (i := .jpV0 nnn) rfl,
    ⟨_, rfl, rfl, toNat_zext16 nnn⟩, ⟨_, rfl, rfl, toNat_zextByte_add_zext16 (s.getV 0) nnn⟩⟩

/-- Settles O24: the two cases of CALL. -/
theorem callPushesItsAddress : Obligations.CallPushesItsAddress := by
  refine fun nnn s => ⟨decode_encode (i := .call nnn) rfl, fun hsp => ?_, exec_call_of_sp_eq_15 nnn⟩
  have hslot := toNat_add_one_of_ne hsp
  refine ⟨_, exec_call_of_sp_ne_15 nnn hsp, rfl, hslot, toNat_zext16 nnn, fun k => ?_⟩
  simp only [getSlot_retireAt, getSlot_setSlot, getSlot_setSP, ← hslot, BitVec.toNat_inj]

end Sys2Proof
end

section
/-! SUPPORT. A skip on a comparison of two bytes, as the whole next state (R126). -/

namespace Sys2Proof.Machine

/-- A skip writes `PC` and the status, nothing else (R126). -/
theorem skipWhen_eq (s : State) (c : Bool) :
    s.skipWhen c = { s with pc := if c then s.pc + 4 else s.pc + 2, status := .retired } := by
  cases c <;> rfl

/-- The skip on equality (R160, R162). -/
theorem skipWhen_beq (s : State) (a b : Byte) :
    s.skipWhen (a == b) =
      { s with pc := if a.toNat = b.toNat then s.pc + 4 else s.pc + 2, status := .retired } := by
  simp only [skipWhen_eq, beq_iff_eq, BitVec.toNat_inj]

/-- The skip on inequality (R161, R163). -/
theorem skipWhen_bne (s : State) (a b : Byte) :
    s.skipWhen (a != b) =
      { s with pc := if a.toNat = b.toNat then s.pc + 2 else s.pc + 4, status := .retired } := by
  simp only [skipWhen_eq, bne_iff_ne, ite_not, BitVec.toNat_inj]

end Sys2Proof.Machine
end

section
/-! PROOF. The statements of 42_skips.md. -/

namespace Sys2Proof

open Sys2Proof.Machine

/-- Settles O26: the four words are the encodings, the words beside them are in R96's table, and each meaning is a skip on
an equality or an inequality. -/
theorem skipsCompareBytes : Obligations.SkipsCompareBytes := by
  refine fun x y kk s => ⟨decode_encode (i := .seImm x kk) rfl, decode_encode (i := .sneImm x kk) rfl,
    decode_encode (i := .seReg x y) rfl, decode_encode (i := .sneReg x y) rfl, fun n hn => ⟨?_, ?_⟩,
    congrArg _ (skipWhen_beq s _ _), congrArg _ (skipWhen_bne s _ _),
    congrArg _ (skipWhen_beq s _ _), congrArg _ (skipWhen_bne s _ _)⟩
  · exact (unrecognizedWords _).1.2 (.inl (by simpa using hn))
  · exact (unrecognizedWords _).1.2 (.inr (.inr (.inl (by simpa using hn))))

end Sys2Proof
end

section
/-! SUPPORT. A retirement that writes one register, or a flag and a register, as the statements say it; and the results and
flags of the arithmetic instructions as numbers (R171, R178 to R182). -/

namespace Sys2Proof

open Sys2Proof.Machine

/-- One register written, then `NextPC()` (R172 to R177, R183). -/
theorem retiresWithV_setV (s : State) (x : Nibble) {b c : Byte} (h : b = c) : RetiresWithV s (s.setV x b).nextPC x c := by
  subst h
  exact ⟨rfl, fun r => getV_setV s x r b⟩

/-- A flag, then a result, written, then `NextPC()`: the result lands last (R171). -/
theorem retiresWithFlagAndV_setFlagThenV (s : State) (x : Nibble) {f g b c : Byte} (hf : f = g) (hb : b = c) :
    RetiresWithFlagAndV s (s.setFlagThenV f x b).nextPC g x c := by
  subst hf hb
  exact ⟨rfl, fun r => getV_setFlagThenV s x r f b⟩

/-- The sum of two bytes, modulo 256 (R173, R178). -/
theorem add_eq_ofNat (a b : Byte) : a + b = BitVec.ofNat 8 ((a.toNat + b.toNat) % 256) :=
  (BitVec.toNat_eq_nat.1 (BitVec.toNat_add a b)).2

/-- The difference of two bytes, modulo 256 (R170, R179, R181). -/
theorem sub_eq_ofNat (a b : Byte) : a - b = BitVec.ofNat 8 ((a.toNat + 256 - b.toNat) % 256) := by
  have hsub : (a - b).toNat = (a.toNat + 256 - b.toNat) % 256 := by bv_omega
  exact (BitVec.toNat_eq_nat.1 hsub).2

/-- A shift right by one halves (R180). -/
theorem ushiftRight_one_eq_ofNat (b : Byte) : b >>> 1 = BitVec.ofNat 8 (b.toNat / 2) :=
  (BitVec.toNat_eq_nat.1 (BitVec.toNat_ushiftRight b 1)).2

/-- A shift left by one doubles, modulo 256 (R182). -/
theorem shiftLeft_one_eq_ofNat (b : Byte) : b <<< 1 = BitVec.ofNat 8 (b.toNat * 2 % 256) := by
  have hshl : (b <<< 1).toNat = b.toNat * 2 % 256 := by rw [BitVec.toNat_shiftLeft, Nat.shiftLeft_eq]
  exact (BitVec.toNat_eq_nat.1 hshl).2

/-- The flag of a comparison (R178, R179, R181). -/
theorem flagByte_decide (p : Prop) [Decidable p] : flagByte (decide p) = if p then 1 else 0 := by
  simp only [flagByte, decide_eq_true_eq]

/-- The flag of a shift: bit 0 is the remainder by two (R180, R182). -/
theorem flagByte_getLsbD_zero (b : Byte) : flagByte (b.getLsbD 0) = BitVec.ofNat 8 (b.toNat % 2) := by
  rw [BitVec.getLsbD, Nat.testBit_zero, flagByte_decide]
  rcases Nat.mod_two_eq_zero_or_one b.toNat with h | h <;> rw [h] <;> rfl

end Sys2Proof
end

section
/-! PROOF. The statements of 43_alu.md. -/

namespace Sys2Proof

open Sys2Proof.Machine

/-- Settles O27: each of the three writes one register; the immediate add's sum as a number. -/
theorem loadsAndImmediateAdd : Obligations.LoadsAndImmediateAdd := fun x y kk s =>
  ⟨decode_encode (i := .ldImm x kk) rfl, decode_encode (i := .addImm x kk) rfl, decode_encode (i := .ldReg x y) rfl,
    ⟨_, rfl, retiresWithV_setV s x rfl⟩,
    ⟨_, rfl, retiresWithV_setV s x (add_eq_ofNat (s.getV x) kk)⟩,
    ⟨_, rfl, retiresWithV_setV s x rfl⟩⟩

/-- Settles O28: each of the three writes one register, and the word operations go bit by bit. -/
theorem logicIsBitwise : Obligations.LogicIsBitwise := fun x y s =>
  ⟨decode_encode (i := .orReg x y) rfl, decode_encode (i := .andReg x y) rfl, decode_encode (i := .xorReg x y) rfl,
    ⟨_, _, rfl, retiresWithV_setV s x rfl, fun _ => BitVec.getLsbD_or⟩,
    ⟨_, _, rfl, retiresWithV_setV s x rfl, fun _ => BitVec.getLsbD_and⟩,
    ⟨_, _, rfl, retiresWithV_setV s x rfl, fun _ => BitVec.getLsbD_xor⟩⟩

/-- Settles O29: the carry, then the sum as a number; the operands are read before either write. -/
theorem addSetsCarry : Obligations.AddSetsCarry := fun x y s =>
  ⟨decode_encode (i := .addReg x y) rfl,
    _, rfl, retiresWithFlagAndV_setFlagThenV s x (flagByte_decide _) (add_eq_ofNat (s.getV x) (s.getV y))⟩

/-- Settles O30: the strict comparison, then the difference as a number; SUBN is SUB with the operands exchanged. -/
theorem subtractSetsGreater : Obligations.SubtractSetsGreater := fun x y s =>
  ⟨decode_encode (i := .subReg x y) rfl, decode_encode (i := .subn x y) rfl,
    ⟨_, rfl, retiresWithFlagAndV_setFlagThenV s x (flagByte_decide _) (sub_eq_ofNat (s.getV x) (s.getV y))⟩,
    ⟨_, rfl, retiresWithFlagAndV_setFlagThenV s x (flagByte_decide _) (sub_eq_ofNat (s.getV y) (s.getV x))⟩⟩

/-- Settles O31: bit 0 of `V[y]` for both (`SHL_FLAG_BIT` is 0, G3), then the half or the double as a number. -/
theorem shiftsTakeVy : Obligations.ShiftsTakeVy := fun x y s =>
  have hflag := flagByte_getLsbD_zero (s.getV y)
  ⟨decode_encode (i := .shr x y) rfl, decode_encode (i := .shl x y) rfl,
    ⟨_, rfl, retiresWithFlagAndV_setFlagThenV s x hflag (ushiftRight_one_eq_ofNat (s.getV y))⟩,
    ⟨_, rfl, retiresWithFlagAndV_setFlagThenV s x hflag (shiftLeft_one_eq_ofNat (s.getV y))⟩⟩

/-- Settles O32: RND writes one register, and the mask goes bit by bit. -/
theorem randomByteIsMasked : Obligations.RandomByteIsMasked := by
  rintro x kk _ s rfl
  exact ⟨decode_encode (i := .rnd x kk) rfl,
    _, _, rfl, retiresWithV_setV s x rfl, fun _ => BitVec.getLsbD_and⟩

end Sys2Proof
end

section
/-! SUPPORT. The index register and the bytes it points at: the results as numbers, and each of Fx33, Fx55 and Fx65 by the
place of its range (R63, R200 to R205). -/

namespace Sys2Proof

open Sys2Proof.Machine

/-- A byte as a 16-bit addend keeps its number (R201). -/
@[simp] theorem toNat_zextByte (b : Byte) : (zextByte b).toNat = b.toNat :=
  BitVec.toNat_setWidth_of_le (by decide)

/-- The address of a digit's glyph is not reduced: 0xFF * 5 fits in 16 bits (R202). -/
theorem toNat_zextByte_mul_five (b : Byte) : (zextByte b * 5).toNat = b.toNat * 5 := by
  have hb := b.isLt
  have hmul : (zextByte b * 5).toNat = b.toNat * 5 % 65536 := by rw [BitVec.toNat_mul, toNat_zextByte]; rfl
  rw [hmul, Nat.mod_eq_of_lt (by omega)]

/-- `I` after a block that lies in memory does not wrap (R204, R205). -/
theorem toNat_advanceIndex_of_le {i : Word} {x : Nibble} (hr : i.toNat + x.toNat ≤ 0xFFF) :
    (advanceIndex i x).toNat = i.toNat + x.toNat + 1 := by
  rw [advanceIndex, blockLength, BitVec.toNat_add, BitVec.toNat_ofNat]
  omega

/-- The address a range from `I` reports when it leaves memory (R264). -/
theorem firstOutside_toNat_of_lt {i : Word} {n : Nat} (hn : n ≠ 0) (hr : 0x1000 < i.toNat + n) :
    firstOutside i.toNat n = some (if i.toNat ≤ 0x1000 then 0x1000 else i) := by
  refine firstOutside_eq_some.2 ⟨⟨hn, hr⟩, ?_⟩
  split <;> rename_i hi
  · rw [Nat.max_eq_right hi]; rfl
  · rw [Nat.max_eq_left (Nat.le_of_not_le hi), BitVec.ofNat_toNat, BitVec.setWidth_eq]

/-- The check of Fx55 and Fx65 when the block leaves memory (R127, R264). -/
theorem firstOutside_blockLength_of_lt {i : Word} {x : Nibble} (hr : 0xFFF < i.toNat + x.toNat) :
    firstOutside i.toNat (blockLength x) = some (if i.toNat ≤ 0x1000 then 0x1000 else i) :=
  firstOutside_toNat_of_lt (Nat.succ_ne_zero _) (by unfold blockLength; omega)

section Cases

variable {x : Nibble} {s : State}

/-- Fx33 inside memory (R203). -/
theorem exec_ldBVx_of_le (hr : s.i.toNat ≤ 0xFFD) :
    exec (.ldBVx x) s = .next (s.storeBytes s.i.toNat (decimalDigits (s.getV x))).nextPC := by
  have hin : firstOutside s.i.toNat 3 = none := firstOutside_eq_none.2 (by omega)
  simp only [exec, execLdBVx, hin]

/-- Fx33 leaving memory (R203, R264). -/
theorem exec_ldBVx_of_lt (hr : 0xFFD < s.i.toNat) :
    exec (.ldBVx x) s = .next (faultedState s .addressOutOfRange (packXKk 0xF x 0x33)
      (if s.i.toNat ≤ 0x1000 then 0x1000 else s.i)) := by
  simp only [exec, execLdBVx, firstOutside_toNat_of_lt (i := s.i) (n := 3) (by decide) (by omega),
    raise_eq_faultedState, encode]

/-- Fx55 leaving memory (R204, R264). -/
theorem exec_ldMemVx_of_lt (hr : 0xFFF < s.i.toNat + x.toNat) :
    exec (.ldMemVx x) s = .next (faultedState s .addressOutOfRange (packXKk 0xF x 0x55)
      (if s.i.toNat ≤ 0x1000 then 0x1000 else s.i)) := by
  simp only [exec, execLdMemVx, firstOutside_blockLength_of_lt hr, raise_eq_faultedState, encode]

/-- Fx65 inside memory (R205). -/
theorem exec_ldVxMem_of_le (hr : s.i.toNat + x.toNat ≤ 0xFFF) :
    exec (.ldVxMem x) s =
      .next ((s.setRegisters (loadBlock s s.i.toNat x)).setI (advanceIndex s.i x)).nextPC := by
  have hin : firstOutside s.i.toNat (blockLength x) = none :=
    firstOutside_eq_none.2 (by unfold blockLength; omega)
  simp only [exec, execLdVxMem, hin]

/-- Fx65 leaving memory (R205, R264). -/
theorem exec_ldVxMem_of_lt (hr : 0xFFF < s.i.toNat + x.toNat) :
    exec (.ldVxMem x) s = .next (faultedState s .addressOutOfRange (packXKk 0xF x 0x65)
      (if s.i.toNat ≤ 0x1000 then 0x1000 else s.i)) := by
  simp only [exec, execLdVxMem, firstOutside_blockLength_of_lt hr, raise_eq_faultedState, encode]

end Cases

/-- The three digits of a byte as numbers: none is reduced (R203). -/
theorem map_toNat_decimalDigits (b : Byte) :
    (decimalDigits b).map BitVec.toNat = [b.toNat / 100, b.toNat / 10 % 10, b.toNat % 10] := by
  have hb := b.isLt
  simp only [decimalDigits, List.map_cons, List.map_nil, BitVec.toNat_ofNat, List.cons.injEq, and_true]
  omega

/-- Where Fx33 puts digit `k`, hundreds first (R203). -/
theorem toNat_byteAt_store_decimalDigits {s : State} (hm : Memory.wf s.fontset s.mem) (base : Nat) (b : Byte) {k : Nat}
    (hk : k < 3) : ((s.storeBytes base (decimalDigits b)).byteAt (base + k)).toNat =
      [b.toNat / 100, b.toNat / 10 % 10, b.toNat % 10].getD k 0 := by
  have hin : base ≤ base + k ∧ base + k < base + (decimalDigits b).length := ⟨by omega, Nat.add_lt_add_left hk base⟩
  rw [byteAt_storeBytes hm.1, if_pos hin, Nat.add_sub_cancel_left, ← map_toNat_decimalDigits]
  exact (List.getD_map _ (0 : Byte) BitVec.toNat).symm

end Sys2Proof
end

section
/-! PROOF. The statements of 44_index_memory.md. -/

namespace Sys2Proof

open Sys2Proof.Machine

/-- Settles O33: each of the three writes `I` alone; the sums and the product as numbers. -/
theorem indexArithmetic : Obligations.IndexArithmetic := by
  refine fun x nnn s => ⟨decode_encode (i := .ldI nnn) rfl, decode_encode (i := .addIVx x) rfl,
    decode_encode (i := .ldFVx x) rfl, ⟨_, rfl, rfl, toNat_zext16 nnn⟩, ⟨_, rfl, rfl, ?_⟩,
    ⟨_, rfl, rfl, toNat_zextByte_mul_five (s.getV x)⟩⟩
  rw [nextPC_i, setI_i, BitVec.toNat_add, toNat_zextByte]

/-- Settles O34: the two cases of Fx33; inside memory, the digits by their place. -/
theorem storeDecimalDigits : Obligations.StoreDecimalDigits := by
  refine fun x s => ⟨decode_encode (i := .ldBVx x) rfl, fun hm hr => ?_, exec_ldBVx_of_lt⟩
  have hdigit := fun {k} => toNat_byteAt_store_decimalDigits hm s.i.toNat (s.getV x) (k := k)
  refine ⟨_, exec_ldBVx_of_le hr, rfl, hdigit (k := 0) (by decide), hdigit (k := 1) (by decide),
    hdigit (k := 2) (by decide), fun a ha => byteAt_storeBytes_outside s ?_⟩
  exact ha.imp_right Nat.succ_le_of_lt

/-- Settles O35: the two cases of Fx55. -/
theorem storeRegisterBlock : Obligations.StoreRegisterBlock := by
  refine fun x s => ⟨decode_encode (i := .ldMemVx x) rfl, fun hm hr => ?_, exec_ldMemVx_of_lt⟩
  refine ⟨_, exec_ldMemVx_of_le hr, rfl, toNat_advanceIndex_of_le hr,
    fun k hk => byteAt_store_registerBlock hm s.i.toNat hk, fun a ha => byteAt_storeBytes_outside s ?_⟩
  rw [length_registerBlock]
  exact ha.imp_right Nat.succ_le_of_lt

/-- Settles O36: the two cases of Fx65. -/
theorem loadRegisterBlock : Obligations.LoadRegisterBlock := by
  refine fun x s => ⟨decode_encode (i := .ldVxMem x) rfl, fun hr => ?_, exec_ldVxMem_of_lt⟩
  exact ⟨_, exec_ldVxMem_of_le hr, rfl, toNat_advanceIndex_of_le hr, getV_loadBlock s s.i.toNat x⟩

/-- Settles O37: Fx55 leaves each `V[k]` at `I + k`, which is where Fx65 reads it; `I` and the registers are no part of
memory. -/
theorem storeThenLoadRestores : Obligations.StoreThenLoadRestores := by
  intro x s t w hm hr hstore
  obtain ⟨t', ht', -, -, hblock, -⟩ := (storeRegisterBlock x s).2.1 hm hr
  obtain rfl : t' = t := Host.Outcome.next.inj (ht'.symm.trans hstore)
  obtain ⟨u, hu, -, hi, hload⟩ := (loadRegisterBlock x { t' with i := s.i, v := w }).2.1 hr
  refine ⟨u, hu, hi, fun r => (hload r).trans ?_⟩
  split <;> rename_i hx
  · exact hblock r hx
  · rfl

end Sys2Proof
end

section
/-! SUPPORT. DRW by its operands: when it draws, the sprite it takes from memory, and what the draw unit and the
collision detector make of a screen (R221 to R227). -/

namespace Sys2Proof

open Sys2Proof.Machine

/-- The register an instruction has written last, once it has retired (R125). -/
theorem getV_nextPC_setV_same (s : State) (x : Nibble) (b : Byte) : (s.setV x b).nextPC.getV x = b := by
  rw [getV_nextPC, getV_setV, if_pos rfl]

/-- Any other register. -/
theorem getV_nextPC_setV_of_ne (s : State) {x r : Nibble} (b : Byte) (h : r ≠ x) :
    (s.setV x b).nextPC.getV r = s.getV r := by
  rw [getV_nextPC, getV_setV, if_neg h]

section Legal

variable {x y n : Nibble} {s t : State}

/-- A legal DRW with rows draws inside the grid (R223). -/
theorem drawLegal.lt_grid (h : drawLegal x y n s) {row col : Nat} (hrow : row < n.toNat) (hcol : col < 8) :
    (s.getV x).toNat + col < 64 ∧ (s.getV y).toNat + row < 32 := by
  rcases h with rfl | ⟨-, hx, hy⟩
  · exact absurd hrow (Nat.not_lt_zero row)
  · omega

/-- A legal DRW passes the check on its bytes (R264). -/
theorem drawLegal.firstOutside_eq_none (h : drawLegal x y n s) : firstOutside s.i.toNat n.toNat = none := by
  rcases h with rfl | ⟨hmem, -, -⟩
  · exact Machine.firstOutside_eq_none.2 (.inl rfl)
  · exact Machine.firstOutside_eq_none.2 (.inr hmem)

/-- A legal DRW passes the check on its rectangle (R223). -/
theorem drawLegal.offGrid_eq_false (h : drawLegal x y n s) : offGrid (s.getV x) (s.getV y) n = false := by
  rcases h with rfl | ⟨-, hx, hy⟩
  · rfl
  · have hright : ¬ (s.getV x).toNat + 7 > 63 := by omega
    have hbottom : ¬ (s.getV y).toNat + n.toNat - 1 > 31 := by omega
    simp [offGrid, hright, hbottom]

/-- A legal DRW draws (R221). -/
theorem drawLegal.exec_drw (h : drawLegal x y n s) :
    exec (.drw x y n) s = .next
      ((s.setScreen (xorDraw s.fb (spriteRows s n) (s.getV x).toNat (s.getV y).toNat)).setV 15
        (flagByte (collides s.fb (spriteRows s n) (s.getV x).toNat (s.getV y).toNat))).nextPC := by
  simp only [exec, execDrw, h.firstOutside_eq_none, h.offGrid_eq_false, Bool.false_eq_true, if_false]

/-- A DRW legal in `s` draws the same sprite at the same place from a state that has its operands and memory. -/
theorem drawLegal.exec_drw_congr (h : drawLegal x y n s) (hi : t.i = s.i) (hx : t.getV x = s.getV x)
    (hy : t.getV y = s.getV y) (hb : ∀ a, t.byteAt a = s.byteAt a) :
    exec (.drw x y n) t = .next
      ((t.setScreen (xorDraw t.fb (spriteRows s n) (s.getV x).toNat (s.getV y).toNat)).setV 15
        (flagByte (collides t.fb (spriteRows s n) (s.getV x).toNat (s.getV y).toNat))).nextPC := by
  have hlegal : drawLegal x y n t := by simpa only [drawLegal, hi, hx, hy] using h
  have hrows : spriteRows t n = spriteRows s n := by
    rw [spriteRows, hi]
    exact List.map_congr_left fun k _ => hb (s.i.toNat + k)
  rw [hlegal.exec_drw, hrows, hx, hy]

end Legal

/-- The number of sprite rows (R221). -/
@[simp] theorem length_spriteRows (s : State) (n : Nibble) : (spriteRows s n).length = n.toNat :=
  length_bytesAt s s.i.toNat n.toNat

/-- The sprite bits of a DRW are those of memory; below the last row there are none (R222). -/
theorem spriteBit_spriteRows (s : State) (n : Nibble) (row col : Nat) :
    spriteBit (spriteRows s n) row col = (decide (row < n.toNat) && memorySpriteBit s row col) := by
  rw [spriteBit, spriteRows, getD_bytesAt, memorySpriteBit]
  split <;> rename_i hrow <;> simp [hrow]

/-- There are no sprite bits below the last row. -/
theorem spriteBit_of_length_le {rows : List Byte} {row : Nat} (h : rows.length ≤ row) (col : Nat) :
    spriteBit rows row col = false := by
  rw [spriteBit, List.getD_eq_default rows 0 h]
  exact BitVec.getLsbD_zero

/-- A collision, by the sprite bits in memory (R224). -/
theorem collides_spriteRows_iff {fb : Vector (BitVec 64) 32} {s : State} {n : Nibble} {vx vy : Nat} :
    collides fb (spriteRows s n) vx vy = true ↔ ∃ row < n.toNat, ∃ col < 8,
      memorySpriteBit s row col = true ∧ pixel fb (vx + col) (vy + row) = true := by
  rw [collides_iff, length_spriteRows]
  refine exists_congr fun row => and_congr_right fun hrow => ?_
  simp [spriteBit_spriteRows, hrow]

/-- `VF` of a draw is 1 exactly on a collision. -/
theorem flagByte_eq_one_iff {f : Bool} : flagByte f = 1 ↔ f = true := by
  cases f <;> decide

/-- The draw unit twice restores the screen (R227). -/
theorem xorDraw_xorDraw (fb : Vector (BitVec 64) 32) (rows : List Byte) (vx vy : Nat) :
    xorDraw (xorDraw fb rows vx vy) rows vx vy = fb :=
  fb_ext fun px hpx py hpy => by
    rw [pixel_xorDraw _ _ _ _ _ _ hpx hpy, pixel_xorDraw _ _ _ _ _ _ hpx hpy, Bool.xor_assoc, Bool.xor_self,
      Bool.xor_false]

/-- The draw unit pixel by pixel, by the rectangle of the sprite (R221). -/
theorem pixel_xorDraw_eq_ite (fb : Vector (BitVec 64) 32) (rows : List Byte) (vx vy : Nat) {px py : Nat} (hpx : px < 64)
    (hpy : py < 32) :
    pixel (xorDraw fb rows vx vy) px py =
      (pixel fb px py ^^
        if vx ≤ px ∧ px < vx + 8 ∧ vy ≤ py ∧ py < vy + rows.length then spriteBit rows (py - vy) (px - vx)
        else false) := by
  rw [pixel_xorDraw _ _ _ _ _ _ hpx hpy]
  by_cases hlast : py < vy + rows.length
  · simp [hlast, Bool.and_assoc]
  · have hbelow : spriteBit rows (py - vy) (px - vx) = false := spriteBit_of_length_le (by omega) _
    simp [hlast, hbelow]

/-- The draw unit at a place of its rectangle. -/
theorem pixel_xorDraw_add (fb : Vector (BitVec 64) 32) (rows : List Byte) {vx vy row col : Nat} (hcol : col < 8)
    (hgrid : vx + col < 64 ∧ vy + row < 32) :
    pixel (xorDraw fb rows vx vy) (vx + col) (vy + row) =
      (pixel fb (vx + col) (vy + row) ^^ spriteBit rows row col) := by
  rw [pixel_xorDraw _ _ _ _ _ _ hgrid.1 hgrid.2]
  simp [hcol]

/-- On a blank screen nothing collides (R227). -/
@[simp] theorem collides_blankScreen (rows : List Byte) (vx vy : Nat) : collides blankScreen rows vx vy = false := by
  simp [collides]

end Sys2Proof
end

section
/-! SUPPORT. R221's nested loop as one loop over the places of the rectangle: no place is visited twice, so each visit
finds the pixel as it was before the instruction (R224). -/

namespace Sys2Proof

open Sys2Proof.Machine

/-- The places (row, column) of an 8-by-`n` rectangle, in the order in which R221 visits them. -/
def spritePlaces (n : Nat) : List (Nat × Nat) := List.range n ×ˢ List.range 8

/-- The sprite bit of the place `p` is 1 and meets a lit pixel. -/
def hits (fb : Vector (BitVec 64) 32) (rows : List Byte) (vx vy : Nat) (p : Nat × Nat) : Bool :=
  spriteBit rows p.1 p.2 && pixel fb (vx + p.2) (vy + p.1)

/-- The body of R221's loop at the place `p`. -/
def visit (rows : List Byte) (vx vy : Nat) (acc : Vector (BitVec 64) 32 × Byte) (p : Nat × Nat) :
    Vector (BitVec 64) 32 × Byte :=
  drawPixel rows vx vy p.1 acc p.2

/-- The pixel of the place `p` lies in the grid. -/
def InGrid (vx vy : Nat) (p : Nat × Nat) : Prop := vx + p.2 < 64 ∧ vy + p.1 < 32

/-- A place of a rectangle is known by its pixel. -/
theorem place_inj {vx vy : Nat} {p q : Nat × Nat} (h : vx + q.2 = vx + p.2 ∧ vy + q.1 = vy + p.1) : q = p :=
  Prod.ext (Nat.add_left_cancel h.2) (Nat.add_left_cancel h.1)

/-- The places of a rectangle: all its rows, eight columns each (R222). -/
theorem mem_spritePlaces {n : Nat} {p : Nat × Nat} : p ∈ spritePlaces n ↔ p.1 < n ∧ p.2 < 8 := by
  rw [spritePlaces, List.mem_product, List.mem_range, List.mem_range]

/-- No place is visited twice (R224). -/
theorem nodup_spritePlaces (n : Nat) : (spritePlaces n).Nodup :=
  List.nodup_range.product List.nodup_range

/-- R221's nested loop visits the places one after the other. -/
theorem drawLoop_eq_foldl_visit (fb : Vector (BitVec 64) 32) (rows : List Byte) (vx vy : Nat) :
    drawLoop fb rows vx vy = (spritePlaces rows.length).foldl (visit rows vx vy) (fb, 0) := by
  simp only [drawLoop, spritePlaces, SProd.sprod, List.product, List.foldl_flatMap, List.foldl_map, visit]

/-- The collision detector looks at every place (R224). -/
theorem collides_eq_any_hits (fb : Vector (BitVec 64) 32) (rows : List Byte) (vx vy : Nat) :
    collides fb rows vx vy = (spritePlaces rows.length).any (hits fb rows vx vy) := by
  simp only [collides, spritePlaces, SProd.sprod, List.product, List.any_flatMap, List.any_map, Function.comp_def, hits]

/-- A column of the grid, as a mask. -/
theorem getLsbD_columnMask {x : Nat} (hx : x < 64) (px : Nat) : (1#64 <<< x).getLsbD px = decide (px = x) := by
  rw [← BitVec.twoPow_eq, BitVec.getLsbD_twoPow, decide_eq_true hx, Bool.true_and]
  exact decide_eq_decide.2 eq_comm

/-- A pixel of the grid written, at its place and elsewhere. -/
theorem pixel_setPixel (fb : Vector (BitVec 64) 32) {x y : Nat} (b : Bool) (hx : x < 64) (hy : y < 32) (px py : Nat) :
    pixel (setPixel fb x y b) px py = if px = x ∧ py = y then b else pixel fb px py := by
  unfold pixel setPixel
  by_cases hrow : py = y
  · subst hrow
    by_cases hcol : px = x
    · subst hcol
      cases b <;> simp [hy, getLsbD_columnMask hx]
    · cases b with
      | false => simpa [hy, hcol, getLsbD_columnMask hx] using BitVec.lt_of_getLsbD
      | true => simp [hy, hcol, getLsbD_columnMask hx]
  · simp [hrow]

section Visits

variable {rows : List Byte} {vx vy : Nat} {ps : List (Nat × Nat)}

/-- A visit changes the pixel of its place, by the sprite bit over it. -/
theorem pixel_visit {p : Nat × Nat} (hp : InGrid vx vy p) (acc : Vector (BitVec 64) 32 × Byte)
    (px py : Nat) :
    pixel (visit rows vx vy acc p).1 px py =
      if px = vx + p.2 ∧ py = vy + p.1 then pixel acc.1 px py ^^ spriteBit rows p.1 p.2 else pixel acc.1 px py := by
  rw [visit, drawPixel, pixel_setPixel _ _ hp.1 hp.2]
  split <;> rename_i h
  · rw [h.1, h.2]
  · rfl

/-- A visit to another place leaves a pixel alone. -/
theorem pixel_visit_of_ne {p q : Nat × Nat} (hp : InGrid vx vy p) (hne : q ≠ p)
    (acc : Vector (BitVec 64) 32 × Byte) :
    pixel (visit rows vx vy acc p).1 (vx + q.2) (vy + q.1) = pixel acc.1 (vx + q.2) (vy + q.1) := by
  rw [pixel_visit hp, if_neg (mt place_inj hne)]

/-- Visits to other places leave a pixel alone. -/
theorem pixel_foldl_visit_of_forall_ne (hgrid : ∀ p ∈ ps, InGrid vx vy p) {px py : Nat}
    (hne : ∀ p ∈ ps, ¬(px = vx + p.2 ∧ py = vy + p.1)) (acc : Vector (BitVec 64) 32 × Byte) :
    pixel (ps.foldl (visit rows vx vy) acc).1 px py = pixel acc.1 px py := by
  induction ps generalizing acc with
  | nil => rfl
  | cons p ps ih =>
    rw [List.forall_mem_cons] at hgrid hne
    rw [List.foldl_cons, ih hgrid.2 hne.2, pixel_visit hgrid.1, if_neg hne.1]

/-- Visits, none twice to a place, change the pixel of each place by the sprite bit over it. -/
theorem pixel_foldl_visit_of_mem (hgrid : ∀ p ∈ ps, InGrid vx vy p) (hnodup : ps.Nodup)
    {q : Nat × Nat} (hq : q ∈ ps) (acc : Vector (BitVec 64) 32 × Byte) :
    pixel (ps.foldl (visit rows vx vy) acc).1 (vx + q.2) (vy + q.1) =
      (pixel acc.1 (vx + q.2) (vy + q.1) ^^ spriteBit rows q.1 q.2) := by
  induction ps generalizing acc with
  | nil => simp at hq
  | cons p ps ih =>
    rw [List.forall_mem_cons] at hgrid
    obtain ⟨hnew, hnodup⟩ := List.nodup_cons.1 hnodup
    rw [List.foldl_cons]
    rcases List.mem_cons.1 hq with rfl | hq
    · rw [pixel_foldl_visit_of_forall_ne hgrid.2 (fun p hp h => hnew (place_inj (q := q) h ▸ hp)),
        pixel_visit hgrid.1, if_pos ⟨rfl, rfl⟩]
    · rw [ih hgrid.2 hnodup hq, pixel_visit_of_ne hgrid.1 (fun e => hnew (e ▸ hq))]

/-- Visits, none twice to a place, set `VF` when a place hits on the screen they start from. -/
theorem flag_foldl_visit (hgrid : ∀ p ∈ ps, InGrid vx vy p) (hnodup : ps.Nodup)
    (acc : Vector (BitVec 64) 32 × Byte) :
    (ps.foldl (visit rows vx vy) acc).2 = if ps.any (hits acc.1 rows vx vy) then 1 else acc.2 := by
  induction ps generalizing acc with
  | nil => rfl
  | cons p ps ih =>
    rw [List.forall_mem_cons] at hgrid
    obtain ⟨hnew, hnodup⟩ := List.nodup_cons.1 hnodup
    have hsame : ps.any (hits (visit rows vx vy acc p).1 rows vx vy) = ps.any (hits acc.1 rows vx vy) := by
      rw [Bool.eq_iff_iff, List.any_eq_true, List.any_eq_true]
      refine exists_congr fun q => and_congr_right fun hq => ?_
      rw [hits, pixel_visit_of_ne hgrid.1 (fun e => hnew (e ▸ hq)), hits]
    have hflag : (visit rows vx vy acc p).2 = if hits acc.1 rows vx vy p then 1 else acc.2 := rfl
    rw [List.foldl_cons, ih hgrid.2 hnodup, hsame, hflag, List.any_cons]
    cases hits acc.1 rows vx vy p with
    | false => rfl
    | true => simp

end Visits

/-- Inside the grid R221's loop computes what the draw unit and the collision detector do. -/
theorem drawLoop_eq {fb : Vector (BitVec 64) 32} {rows : List Byte} {vx vy : Nat}
    (hgrid : ∀ p ∈ spritePlaces rows.length, InGrid vx vy p) :
    drawLoop fb rows vx vy = (xorDraw fb rows vx vy, flagByte (collides fb rows vx vy)) := by
  have hnodup := nodup_spritePlaces rows.length
  rw [drawLoop_eq_foldl_visit]
  refine Prod.ext (fb_ext fun px hpx py hpy => ?_) ?_
  · by_cases hin : ∃ p ∈ spritePlaces rows.length, px = vx + p.2 ∧ py = vy + p.1
    · obtain ⟨p, hp, rfl, rfl⟩ := hin
      rw [pixel_foldl_visit_of_mem hgrid hnodup hp,
        pixel_xorDraw_add fb rows (mem_spritePlaces.1 hp).2 ⟨hpx, hpy⟩]
    · rw [pixel_foldl_visit_of_forall_ne hgrid (fun p hp h => hin ⟨p, hp, h⟩),
        pixel_xorDraw_eq_ite _ _ _ _ hpx hpy, if_neg, Bool.xor_false]
      rintro ⟨hleft, hright, htop, hbottom⟩
      exact hin ⟨(py - vy, px - vx), mem_spritePlaces.2 ⟨by omega, by omega⟩, by omega, by omega⟩
  · rw [flag_foldl_visit hgrid hnodup, collides_eq_any_hits]
    rfl

end Sys2Proof
end

section
/-! PROOF. The statements of 45_display.md. -/

namespace Sys2Proof

open Sys2Proof.Machine

/-- Settles O40: pixel by pixel the draw unit, and the collision detector place by place. -/
theorem drawXorsTheSprite : Obligations.DrawXorsTheSprite := by
  refine fun x y n s => ⟨decode_encode (i := .drw x y n) rfl, fun h => ⟨_, h.exec_drw, rfl, fun px hpx py hpy => ?_,
    fun r hr => ?_, fun hhit => ?_, fun hmiss => ?_⟩⟩
  · rw [nextPC_fb, setV_fb, setScreen_fb, pixel_xorDraw_eq_ite _ _ _ _ hpx hpy, length_spriteRows]
    congr 1
    refine ite_congr rfl (fun hin => ?_) fun _ => rfl
    rw [spriteBit_spriteRows, decide_eq_true (by omega), Bool.true_and]
  · rw [getV_nextPC_setV_of_ne _ _ hr, getV_setScreen]
  · rw [getV_nextPC_setV_same, collides_spriteRows_iff.2 hhit]
    rfl
  · rw [getV_nextPC_setV_same, Bool.eq_false_iff.2 (mt collides_spriteRows_iff.1 hmiss)]
    rfl

/-- Settles O42: a legal rectangle lies in the grid. -/
theorem drawRefinesTheLoop : Obligations.DrawRefinesTheLoop := by
  refine fun x y n s h => ⟨_, h.exec_drw, ?_⟩
  have hgrid : ∀ p ∈ spritePlaces (spriteRows s n).length, InGrid (s.getV x).toNat (s.getV y).toNat p := by
    intro p hp
    rw [length_spriteRows] at hp
    obtain ⟨hrow, hcol⟩ := mem_spritePlaces.1 hp
    exact h.lt_grid hrow hcol
  rw [getV_nextPC_setV_same]
  exact (drawLoop_eq hgrid).symm

/-- Settles O43: the second DRW has the operands of the first; it hits a place where the sprite bit is 1 and the
first one lit the pixel. -/
theorem drawTwiceRestores : Obligations.DrawTwiceRestores := by
  intro x y n s t hx hy h ht
  obtain rfl := Host.Outcome.next.inj (h.exec_drw.symm.trans ht)
  refine ⟨_, h.exec_drw_congr rfl ?_ ?_ fun _ => rfl, xorDraw_xorDraw s.fb _ _ _, ?_⟩
  · rw [getV_nextPC_setV_of_ne _ _ hx, getV_setScreen]
  · rw [getV_nextPC_setV_of_ne _ _ hy, getV_setScreen]
  rw [getV_nextPC_setV_same, flagByte_eq_one_iff, collides_spriteRows_iff]
  refine exists_congr fun row => and_congr_right fun hrow => exists_congr fun col => and_congr_right fun hcol =>
    and_congr_right fun hbit => ?_
  rw [nextPC_fb, setV_fb, setScreen_fb, pixel_xorDraw_add _ _ hcol (h.lt_grid hrow hcol), spriteBit_spriteRows,
    decide_eq_true hrow, hbit]
  simp

/-- Settles O44: CLS leaves the operands and a blank screen. -/
theorem drawAfterClearFindsNoCollision : Obligations.DrawAfterClearFindsNoCollision := by
  intro x y n s t ht h
  obtain rfl := Host.Outcome.next.inj ht
  refine ⟨_, h.exec_drw_congr rfl rfl rfl fun _ => rfl, ?_, rfl⟩
  rw [getV_nextPC_setV_same, nextPC_fb, setScreen_fb, collides_blankScreen]
  rfl

/-- Settles O39: the blank screen has no pixel lit. -/
theorem clearScreen : Obligations.ClearScreen :=
  ⟨rfl, fun _ => ⟨_, rfl, rfl, fun px _ py _ => pixel_blankScreen px py⟩⟩

end Sys2Proof
end

section
/-! SUPPORT. The key that a register names (R246), and each of SKP and SKNP by its two cases (R243, R244, R266). -/

namespace Sys2Proof.Machine

/-- The skip when a condition fails, as the whole next state (R126, R244). -/
theorem skipWhen_not (s : State) (c : Bool) :
    s.skipWhen (!c) = { s with pc := if c then s.pc + 2 else s.pc + 4, status := .retired } := by
  cases c <;> rfl

section Keys
variable {x : Nibble} {s : State}

/-- A key number up to 15 names one of the 16 levels: its low nibble is the whole byte (R246). -/
theorem keyLevel_of_le (hk : (s.getV x).toNat ≤ 15) :
    keyLevel s x = some (s.ports.keys.getLsbD (s.getV x).toNat) := by
  have hnibble : ((s.getV x).setWidth 4).toNat = (s.getV x).toNat := by
    rw [BitVec.toNat_setWidth, Nat.mod_eq_of_lt (Nat.lt_succ_of_le hk)]
  rw [keyLevel, if_pos hk, keyDown, hnibble]

/-- A key number above 15 names none (R246). -/
theorem keyLevel_of_lt (hk : 15 < (s.getV x).toNat) : keyLevel s x = none :=
  if_neg (Nat.not_le_of_lt hk)

/-- SKP on a key that exists (R243). -/
theorem exec_skp_of_le (hk : (s.getV x).toNat ≤ 15) :
    exec (.skp x) s = .next (s.skipWhen (s.ports.keys.getLsbD (s.getV x).toNat)) := by
  rw [exec, execSkp, keyLevel_of_le hk]

/-- SKNP on a key that exists (R244). -/
theorem exec_sknp_of_le (hk : (s.getV x).toNat ≤ 15) :
    exec (.sknp x) s = .next (s.skipWhen (!s.ports.keys.getLsbD (s.getV x).toNat)) := by
  rw [exec, execSknp, keyLevel_of_le hk]

/-- SKP on a key that does not exist (R266, D9). -/
theorem exec_skp_of_lt (hk : 15 < (s.getV x).toNat) :
    exec (.skp x) s = .next
      (faultedState s .keyOutOfRange (packXKk 0xE x 0x9E) (BitVec.ofNat 16 (s.getV x).toNat)) := by
  simp only [exec, execSkp, keyLevel_of_lt hk, raise_eq_faultedState, encode, zextByte, BitVec.ofNat_toNat]

/-- SKNP on a key that does not exist (R266, D9). -/
theorem exec_sknp_of_lt (hk : 15 < (s.getV x).toNat) :
    exec (.sknp x) s = .next
      (faultedState s .keyOutOfRange (packXKk 0xE x 0xA1) (BitVec.ofNat 16 (s.getV x).toNat)) := by
  simp only [exec, execSknp, keyLevel_of_lt hk, raise_eq_faultedState, encode, zextByte, BitVec.ofNat_toNat]

end Keys

end Sys2Proof.Machine
end

section
/-! PROOF. The statements of 46_timers_keypad.md: the timers and the key skips. -/

namespace Sys2Proof

open Sys2Proof.Machine

/-- Settles O45: each of the three writes one element and retires; none has a case. -/
theorem timerInstructions : Obligations.TimerInstructions := fun x s =>
  ⟨decode_encode (i := .ldVxDt x) rfl, decode_encode (i := .ldDtVx x) rfl, decode_encode (i := .ldStVx x) rfl,
    ⟨_, rfl, retiresWithV_setV s x rfl⟩, rfl, rfl⟩

/-- Settles O46: the two cases of the key number; on an existing key, the whole next state of the skip. -/
theorem keySkips : Obligations.KeySkips := by
  refine fun x s => ⟨decode_encode (i := .skp x) rfl, decode_encode (i := .sknp x) rfl, fun hk => ⟨?_, ?_⟩,
    fun hk => ⟨exec_skp_of_lt hk, exec_sknp_of_lt hk⟩⟩
  · rw [exec_skp_of_le hk, skipWhen_eq]
  · rw [exec_sknp_of_le hk, skipWhen_not]

end Sys2Proof
end

section
/-! SUPPORT. A fault, a halt and the halt record, through an instruction, a step and an operation (R35, R269, R273). -/

namespace Sys2Proof.Machine

/-- The causes of a fault are the codes 1 to 6 (R260): not the running engine's, not SYS, not the host. -/
theorem causeCode_of_fault {c : HaltCause} (hc : c ≠ .none ∧ c ≠ .sysHalt ∧ c ≠ .hostQuit) :
    1 ≤ (causeCode c).toNat ∧ (causeCode c).toNat ≤ 6 := by
  obtain ⟨hnone, hsys, hquit⟩ := hc
  cases c with
  | none => exact absurd rfl hnone
  | sysHalt => exact absurd rfl hsys
  | hostQuit => exact absurd rfl hquit
  | _ => decide

/-- An instruction that answers Faulted has raised a fault's cause with its own word (R269). -/
theorem Ending.fault_of_status {i : Instr} {s t : State} (e : Ending i s t) (hs : t.status = .faulted) :
    ∃ c info, (1 ≤ (causeCode c).toNat ∧ (causeCode c).toNat ≤ 6) ∧ t = s.raise c (encode i) info := by
  cases e with
  | faulted c info hc h => exact ⟨c, info, causeCode_of_fault hc, h⟩
  | waiting x hi hk h | halted nnn hi h => simp [h] at hs
  | retired hr _ _ _ => simp [hr] at hs

/-- The word a fault reports: the fetched one, 0x0000 when the fetch failed (R264, R269). -/
def reportedWord (s : State) : Word :=
  match fetch s with
  | .ok w => w
  | .error _ => 0x0000

theorem reportedWord_of_fetch_ok {s : State} {w : Word} (hf : fetch s = .ok w) : reportedWord s = w := by
  rw [reportedWord, hf]

theorem reportedWord_of_fetch_error {s : State} {a : Word} (hf : fetch s = .error a) : reportedWord s = 0x0000 := by
  rw [reportedWord, hf]

/-- How a run state and its halt record may change together (R35, R273): not at all, or by a halt that names a cause and
the address `PC` had. -/
inductive HaltRecordChange (s t : State) : Prop where
  /-- Neither changes. -/
  | kept (hr : t.running = s.running) (hh : t.halt = s.halt)
  /-- The engine halts and reports. -/
  | written (hs : s.running = true) (ht : t.running = false) (hc : t.halt.cause ≠ .none) (hpc : t.halt.pc = s.pc)

/-- The instruction's halts are faults and SYS (R141, R269). -/
theorem Ending.haltRecordChange {i : Instr} {s t : State} (e : Ending i s t) (hs : s.running = true) :
    HaltRecordChange s t := by
  cases e with
  | faulted c info hc h => exact h ▸ .written hs rfl hc.1 rfl
  | waiting x hi hk h => exact h ▸ .kept rfl rfl
  | halted nnn hi h => exact h ▸ .written hs rfl (by simp) rfl
  | retired _ hr hh _ => exact .kept hr hh

/-- A step halts by an instruction, or by a fault of its fetch or its word (R120). -/
theorem step_haltRecordChange {s t : State} (h : step s = .next t) : HaltRecordChange s t := by
  cases step_ending h with
  | idle hr ht => exact ht ▸ .kept rfl rfl
  | fetchFault hr a hf ht | unrecognized hr w hf e hd ht => exact ht ▸ .written hr rfl (by simp) rfl
  | executed hr w hf i hd u he ht =>
    subst ht
    cases (exec_ending he).haltRecordChange hr with
    | kept hu hh => exact .kept hu hh
    | written hs hu hc hpc => exact .written hs hu hc hpc

/-- The host's quit halts and reports a running engine (R268). -/
theorem quit_haltRecordChange (s : State) : HaltRecordChange s (quit s) := by
  unfold quit
  split <;> rename_i hr
  · exact .written hr rfl (by simp) rfl
  · exact .kept rfl rfl

/-- `tick` counts only (R276). -/
theorem tick_haltRecordChange (s : State) : HaltRecordChange s (tick s) := by
  unfold tick
  split <;> exact .kept rfl rfl

/-- Every operation and host action but the reset (R273). -/
theorem operate_haltRecordChange {op : Operation} {s t : State} (hop : op ≠ .reset) (h : operate op s = .next t) :
    HaltRecordChange s t := by
  cases op with
  | reset => exact absurd rfl hop
  | load image =>
    obtain ⟨-, -, rfl⟩ := load_eq_next.1 h
    exact .kept rfl rfl
  | step => exact step_haltRecordChange h
  | tick => exact Host.Outcome.next.inj h ▸ tick_haltRecordChange s
  | repaintAck => exact Host.Outcome.next.inj h ▸ .kept rfl rfl
  | quit => exact Host.Outcome.next.inj h ▸ quit_haltRecordChange s
  | drivePorts p =>
    obtain ⟨-, rfl⟩ := drivePorts_eq_next.1 h
    exact .kept rfl rfl

end Sys2Proof.Machine

namespace Sys2Proof

open Sys2Proof.Machine

/-- A step that answers Faulted has raised a fault's cause with the fetched word, from a running engine (R269). -/
theorem step_fault_of_status {s t : State} (h : step s = .next t) (hs : t.status = .faulted) :
    s.running = true ∧ ∃ c info, (1 ≤ (causeCode c).toNat ∧ (causeCode c).toNat ≤ 6) ∧
      t = (s.raise c (reportedWord s) info).afterStep := by
  cases step_ending h with
  | idle hr ht => simp [ht] at hs
  | fetchFault hr a hf ht =>
    exact ⟨hr, .addressOutOfRange, a, by decide, by rw [reportedWord_of_fetch_error hf, ht]⟩
  | unrecognized hr w hf e hd ht =>
    exact ⟨hr, .unrecognizedOpcode, 0, by decide, by rw [reportedWord_of_fetch_ok hf, ht]⟩
  | executed hr w hf i hd u he ht =>
    subst ht
    obtain ⟨c, info, hc, rfl⟩ := (exec_ending he).fault_of_status hs
    obtain ⟨hw, -⟩ := encodeOfDecode w i hd
    exact ⟨hr, c, info, hc, by rw [reportedWord_of_fetch_ok hf, hw]⟩

end Sys2Proof
end

section
/-! SUPPORT. The call stack through an instruction (R28, R29). -/

namespace Sys2Proof

open Sys2Proof.Machine

/-- The one write of the stack: a CALL below the stack's end puts its address in the slot above `SP` (R143). -/
theorem Effect.stack_cases {i : Instr} {s t : State} (e : Effect i s t) :
    t.stack = s.stack ∨
      (∃ nnn, i = .call nnn) ∧ s.sp ≠ 15 ∧ t.stack = (s.setSlot (s.sp + 1) s.pc).stack := by
  cases e with
  | called nnn hi hsp h => exact .inr ⟨⟨nnn, hi⟩, hsp, h ▸ rfl⟩
  | _ => subst t; simp

/-- Every slot but the one above `SP` keeps its value, and no write reaches slot 0: `SP` = 15 has no slot above (R28, D4). -/
theorem Effect.getSlot_eq {i : Instr} {s t : State} (e : Effect i s t) {k : Nibble} (hk : k = s.sp + 1 → k = 0) :
    t.getSlot k = s.getSlot k := by
  rcases e.stack_cases with hstack | ⟨-, hsp, hstack⟩
  · exact getSlot_congr hstack k
  · have hne : k ≠ s.sp + 1 := fun hk' => by
      have hzero := hk hk'
      bv_omega
    rw [getSlot_congr hstack k, getSlot_setSlot, if_neg hne]

/-- Only CALL and RET move `SP` (R29). -/
theorem Effect.sp_eq {i : Instr} {s t : State} (e : Effect i s t) (hcall : ∀ nnn, i ≠ .call nnn) (hret : i ≠ .ret) :
    t.sp = s.sp := by
  cases e with
  | called nnn hi hsp h => exact absurd hi (hcall nnn)
  | returned hi hsp h => exact absurd hi hret
  | _ => subst t; simp

end Sys2Proof
end

section
/-! SUPPORT. A machine with other values on its input ports, through an instruction (R247, R280). -/

namespace Sys2Proof

open Sys2Proof.Machine

/-- `s` with the values `p` on the input ports. -/
def withPorts (s : State) (p : Ports) : State := { s with ports := p }

section Fields

variable (s : State) (p : Ports)

@[simp] theorem withPorts_i : (withPorts s p).i = s.i := rfl
@[simp] theorem withPorts_sp : (withPorts s p).sp = s.sp := rfl
@[simp] theorem withPorts_ports : (withPorts s p).ports = p := rfl
@[simp] theorem getV_withPorts (x : Nibble) : (withPorts s p).getV x = s.getV x := rfl

/-- A skip moves `PC` alone (R126). -/
@[simp] theorem skipWhen_withPorts (c : Bool) : (withPorts s p).skipWhen c = withPorts (s.skipWhen c) p := by
  cases c <;> rfl

end Fields

/-- The level of a key is read off the key levels alone (R246). -/
theorem keyLevel_withPorts {s : State} {p : Ports} (hk : p.keys = s.ports.keys) (x : Nibble) :
    keyLevel (withPorts s p) x = keyLevel s x := by
  rw [keyLevel, keyLevel, withPorts_ports, hk, getV_withPorts]

/-- An instruction does the same on other ports that agree on what it reads of them. -/
theorem exec_withPorts {i : Instr} {s : State} {p : Ports}
    (hkeys : readsKeys i = true → p.keys = s.ports.keys ∧ p.keyFirst = s.ports.keyFirst)
    (hrnd : readsRandom i = true → p.rnd = s.ports.rnd) :
    exec i (withPorts s p) = mapNext (withPorts · p) (exec i s) := by
  cases i with
  | ret =>
    simp only [exec, execRet, withPorts_sp]
    by_cases hsp : s.sp = 0 <;> simp only [hsp, if_true, if_false] <;> rfl
  | call nnn =>
    simp only [exec, execCall, withPorts_sp]
    by_cases hsp : s.sp = 15 <;> simp only [hsp, if_true, if_false] <;> rfl
  | seImm x kk | sneImm x kk | seReg x y | sneReg x y =>
    exact congrArg Host.Outcome.next (skipWhen_withPorts s p _)
  | rnd x kk =>
    simp only [exec, execRnd, withPorts_ports, hrnd rfl]
    rfl
  | skp x | sknp x =>
    simp only [exec, execSkp, execSknp, keyLevel_withPorts (hkeys rfl).1]
    cases keyLevel s x with
    | none => rfl
    | some down => exact congrArg Host.Outcome.next (skipWhen_withPorts s p _)
  | ldVxK x =>
    simp only [exec, execLdVxK, withPorts_ports, (hkeys rfl).2]
    cases s.ports.keyFirst <;> rfl
  | drw x y n =>
    simp only [exec, execDrw, withPorts_i, getV_withPorts]
    cases firstOutside s.i.toNat n.toNat with
    | some a => rfl
    | none => by_cases hgrid : offGrid (s.getV x) (s.getV y) n = true <;> simp only [hgrid, if_true] <;> rfl
  | ldBVx x =>
    simp only [exec, execLdBVx, withPorts_i]
    cases firstOutside s.i.toNat 3 <;> rfl
  | ldMemVx x | ldVxMem x =>
    simp only [exec, execLdMemVx, execLdVxMem, withPorts_i]
    cases firstOutside s.i.toNat (blockLength x) <;> rfl
  | _ => rfl

/-- So it answers the same next state, but for the ports. -/
theorem exec_withPorts_eq_next {i : Instr} {s t : State} {p : Ports} (h : exec i s = .next t)
    (hkeys : readsKeys i = true → p.keys = s.ports.keys ∧ p.keyFirst = s.ports.keyFirst)
    (hrnd : readsRandom i = true → p.rnd = s.ports.rnd) : exec i (withPorts s p) = .next (withPorts t p) := by
  rw [exec_withPorts hkeys hrnd, h, mapNext_next]

end Sys2Proof
end

section
/-! SUPPORT. The two faults of DRW, each under its own check (R223, R264, R265). -/

namespace Sys2Proof

open Sys2Proof.Machine

/-- DRW whose bytes leave memory (R264). -/
theorem exec_drw_of_lt {x y n : Nibble} {s : State} (hn : n ≠ 0) (hr : 0x1000 < s.i.toNat + n.toNat) :
    exec (.drw x y n) s = .next (faultedState s .addressOutOfRange (packXYN 0xD x y n)
      (if s.i.toNat ≤ 0x1000 then 0x1000 else s.i)) := by
  have hn' : n.toNat ≠ 0 := fun h => hn (BitVec.eq_of_toNat_eq h)
  simp only [exec, execDrw, firstOutside_toNat_of_lt hn' hr, raise_eq_faultedState, encode]

/-- The rectangle of a DRW with rows leaves the grid past column 63 or row 31 (R223). -/
theorem offGrid_of_lt {vx vy : Byte} {n : Nibble} (hn : n ≠ 0) (hout : 56 < vx.toNat ∨ 32 < vy.toNat + n.toNat) :
    offGrid vx vy n = true := by
  have hrows : 1 ≤ n.toNat := Nat.one_le_iff_ne_zero.2 fun h => hn (BitVec.eq_of_toNat_eq h)
  have hpast : vx.toNat + 7 > 63 ∨ vy.toNat + n.toNat - 1 > 31 := by omega
  simpa [offGrid, hrows] using hpast

/-- DRW whose bytes lie in memory and whose rectangle leaves the grid (R265). -/
theorem exec_drw_of_offGrid {x y n : Nibble} {s : State} (hr : s.i.toNat + n.toNat ≤ 0x1000)
    (hout : offGrid (s.getV x) (s.getV y) n = true) :
    exec (.drw x y n) s = .next (faultedState s .framebufferOutOfRange (packXYN 0xD x y n)
      (BitVec.ofNat 16 ((s.getV y).toNat * 256 + (s.getV x).toNat))) := by
  have hin : firstOutside s.i.toNat n.toNat = none := firstOutside_eq_none.2 (.inr hr)
  have hinfo : s.getV y ++ s.getV x = BitVec.ofNat 16 ((s.getV y).toNat * 256 + (s.getV x).toNat) :=
    (BitVec.toNat_eq_nat.1 (toNat_append_byte _ _)).2
  simp only [exec, execDrw, hin, hout, if_true, raise_eq_faultedState, encode, hinfo]

end Sys2Proof
end

section
/-! SUPPORT. The key wait by `key_first` (R245), a timer's count (R276), and the host's duty on the key ports by `key_first`
(R279). -/

namespace Sys2Proof

open Sys2Proof.Machine

/-- LD Vx, K with no key (R245). -/
theorem exec_ldVxK_of_none {x : Nibble} {s : State} (hk : s.ports.keyFirst = none) :
    exec (.ldVxK x) s = .next (s.endWith .waiting) := by
  rw [exec, execLdVxK, hk]

/-- LD Vx, K with a key (R245). -/
theorem exec_ldVxK_of_some {x k : Nibble} {s : State} (hk : s.ports.keyFirst = some k) :
    exec (.ldVxK x) s = .next (s.setV x (k.setWidth 8)).nextPC := by
  rw [exec, execLdVxK, hk]

/-- A timer's count as a number: the natural subtraction stays at 0 too (R276). -/
theorem toNat_countDown (b : Byte) : (countDown b).toNat = b.toNat - 1 := by
  unfold countDown
  split <;> rename_i hb
  · simp [hb]
  · bv_omega

/-- No key is down exactly when the 16 levels are all 0 (R279). -/
theorem keys_eq_zero_iff {keys : BitVec 16} : keys = 0 ↔ ∀ k : Nibble, keys.getLsbD k.toNat = false := by
  constructor
  · rintro rfl k
    exact BitVec.getLsbD_zero
  · intro h
    apply BitVec.eq_of_getLsbD_eq
    intro j hj
    have hj' := h (BitVec.ofNat 4 j)
    rwa [BitVec.toNat_ofNat, Nat.mod_eq_of_lt hj, ← BitVec.getLsbD_zero (i := j) (w := 16)] at hj'

/-- The host's duty when `key_first` names none (R279). -/
theorem portsConsistent_of_none {p : Ports} (hp : p.keyFirst = none) :
    portsConsistent p = true ↔ ∀ k : Nibble, p.keys.getLsbD k.toNat = false := by
  rw [portsConsistent, hp, ← keys_eq_zero_iff]
  exact beq_iff_eq

/-- The host's duty when `key_first` names a key (R279). -/
theorem portsConsistent_of_some {p : Ports} {k : Nibble} (hp : p.keyFirst = some k) :
    portsConsistent p = p.keys.getLsbD k.toNat := by
  rw [portsConsistent, hp]
  rfl

/-- Ports that break the host's duty are refused (U13). -/
theorem drivePorts_of_not_consistent {p : Ports} (hp : ¬ portsConsistent p = true) (s : State) :
    drivePorts p s = .refused .inconsistentKeys :=
  if_neg hp

end Sys2Proof
end

section
/-! PROOF. The statements of 60_exceptions.md, and those of other files that the halts, the host's actions and the input
ports settle. -/

namespace Sys2Proof

open Sys2Proof.Machine

/-- Settles O12: the state after a fault is the one fault entry's, on the fetched word. -/
theorem faultsArePrecise : Obligations.FaultsArePrecise := by
  intro s t h hs
  obtain ⟨hr, c, info, hc, rfl⟩ := step_fault_of_status h hs
  exact ⟨hr, rfl, rfl, rfl, hc, fun _ hf => reportedWord_of_fetch_ok hf, fun _ hf => reportedWord_of_fetch_error hf⟩

/-- Settles O14: an operation keeps run state and record both, or halts and reports. -/
theorem haltRecordWrittenOnce : Obligations.HaltRecordWrittenOnce := by
  intro op s t h hop
  cases operate_haltRecordChange hop h with
  | kept hr hh =>
    exact ⟨fun _ => hh, hr.trans, fun hs ht => absurd (ht.symm.trans (hr.trans hs)) Bool.false_ne_true⟩
  | written hs ht hc hpc =>
    exact ⟨fun e => absurd (ht.symm.trans (e.symm.trans hs)) Bool.false_ne_true, fun _ => ht, fun _ _ => ⟨hc, hpc⟩⟩

/-- Settles O9: `faultedState` is the model's fault entry, field by field. -/
theorem unrecognizedOpcodeHalts : Obligations.UnrecognizedOpcodeHalts :=
  fun _ _ _ hr hf hd => step_of_decode_error hr hf hd

/-- Settles O49: each timer by its count. -/
theorem tickCountsDown : Obligations.TickCountsDown := by
  intro s
  refine ⟨fun hr => ?_, fun hr => ?_⟩
  · have htick : tick s = { s with dt := countDown s.dt, st := countDown s.st } := if_pos hr
    exact ⟨_, congrArg Host.Outcome.next htick, rfl, toNat_countDown s.dt, toNat_countDown s.st⟩
  · simp [operate, tick, hr]

/-- Settles O50: `quit` by the run state; `repaint_ack` has no case. -/
theorem quitAndRepaintAck : Obligations.QuitAndRepaintAck := by
  intro s
  refine ⟨fun hr => ?_, fun hr => ?_, rfl⟩
  · simp [operate, quit, hr, State.haltWith]
  · simp [operate, quit, hr]

/-- Settles O17: the one write of the stack, and the two effects that move `SP`. -/
theorem frameOfCallStack : Obligations.FrameOfCallStack := by
  intro i s t h
  have effect := exec_effect h
  refine ⟨fun hcall => ?_, effect.sp_eq, fun k hk => effect.getSlot_eq fun hk' => absurd hk' hk,
    effect.getSlot_eq fun _ => rfl⟩
  rcases effect.stack_cases with hstack | ⟨⟨nnn, hi⟩, -, -⟩
  · exact hstack
  · exact absurd hi (hcall nnn)

/-- Settles O48: each clause changes only ports that the instruction does not read. -/
theorem portsMatterOnlyToTheirReaders : Obligations.PortsMatterOnlyToTheirReaders := by
  intro i s t p h
  refine ⟨fun hi hrnd => exec_withPorts_eq_next h ?_ fun _ => hrnd,
    fun hi hkeys hfirst => exec_withPorts_eq_next h (fun _ => ⟨hkeys, hfirst⟩) ?_⟩
  · simp [hi]
  · simp [hi]

/-- Settles O10: the step of a halted engine writes the status alone. -/
theorem haltedStepIsIdle : Obligations.HaltedStepIsIdle := fun _ hr => step_of_not_running hr

/-- Settles O41: the two checks of DRW, in their order. -/
theorem drawOutOfRangeFaults : Obligations.DrawOutOfRangeFaults := fun _ _ _ _ hn =>
  ⟨exec_drw_of_lt hn, fun hr hout => exec_drw_of_offGrid hr (offGrid_of_lt hn hout)⟩

/-- Settles O47: by `key_first`. -/
theorem keyWait : Obligations.KeyWait := fun x s =>
  ⟨decode_encode (i := .ldVxK x) rfl, exec_ldVxK_of_none, fun k hk =>
    ⟨_, exec_ldVxK_of_some hk, retiresWithV_setV s x (BitVec.ofNat_toNat 8 k).symm⟩⟩

/-- Settles O59: the host's duty, by what `key_first` names. -/
theorem drivenPortsKeepTheHostsDuty : Obligations.DrivenPortsKeepTheHostsDuty := by
  intro p s
  refine ⟨fun hduty => drivePorts_eq_next.2 ⟨?_, rfl⟩, fun hp hdown => drivePorts_of_not_consistent ?_ s,
    fun k hp hup => drivePorts_of_not_consistent ?_ s⟩
  · rcases hduty with ⟨hp, hup⟩ | ⟨k, hp, hdown⟩
    · exact (portsConsistent_of_none hp).2 hup
    · exact (portsConsistent_of_some hp).trans hdown
  · obtain ⟨k, hdown⟩ := hdown
    rw [portsConsistent_of_none hp]
    exact fun hup => Bool.false_ne_true ((hup k).symm.trans hdown)
  · rw [portsConsistent_of_some hp, hup]
    exact Bool.false_ne_true

end Sys2Proof
end
